-- ==== Sys2Proof/Word.lean ====
section
/-! DEFINITION. The words of WSFP: bytes, 9-bit bus addresses and 18-bit transaction words. -/

namespace Sys2Proof

/-- One byte: every register and every access is 8 bits wide (00_scope.md R7 `DATA_W`, 20_memory.md R36). -/
abbrev Byte := BitVec 8

/-- A host-bus address, 0x000 to 0x1FF (00_scope.md R7 `ADDR_W`, 20_memory.md R31). -/
abbrev Addr := BitVec 9

/-- One host transaction written as a word (30_encoding.md R57). -/
abbrev BusWord := BitVec 18

end Sys2Proof
end

