-- ==== Sys2Proof/Config.lean ====
section
/-! DEFINITION. What is fixed for the machine: the constants of 00_scope.md R6 and R7, the bases of the address map
of 20_memory.md R32, and the one free value, `draw8`. -/

namespace Sys2Proof.Config

/-- `HDR_BYTES`: offset of the first payload byte and minimum frame length (00_scope.md R6). -/
@[simp] abbrev hdrBytes : Nat := 6

/-- `KEY_BYTES`: the key cycles with this period (00_scope.md R6). -/
@[simp] abbrev keyBytes : Nat := 4

/-- `KEY_OFFSET`: first masking-key byte index (00_scope.md R6). -/
@[simp] abbrev keyOffset : Nat := 2

/-- `MAX_SHORT_LEN`: largest payload length the block supports (00_scope.md R6). -/
@[simp] abbrev maxShortLen : Nat := 125

/-- `EXT16_MARK` (00_scope.md R6). -/
@[simp] abbrev ext16Mark : BitVec 7 := 126#7

/-- `EXT64_MARK` (00_scope.md R6). -/
@[simp] abbrev ext64Mark : BitVec 7 := 127#7

/-- `OPCODE_MASK` (00_scope.md R6). -/
@[simp] abbrev opcodeMask : Byte := 0x0F#8

/-- `LEN_MASK` (00_scope.md R6). -/
@[simp] abbrev lenMask : Byte := 0x7F#8

/-- `IN_BUF_BYTES` (00_scope.md R7). -/
@[simp] abbrev inBufBytes : Nat := 256

/-- `OUT_BUF_BYTES` (00_scope.md R7). -/
@[simp] abbrev outBufBytes : Nat := 128

/-- Host address of `OUT_BUF[0]`; `IN_BUF[0]` is at 0x000 (20_memory.md R32). -/
@[simp] abbrev outBufBase : Nat := 0x100

/-- Host address of `CMD` (20_memory.md R32). -/
@[simp] abbrev cmdAddr : Addr := 0x180#9

/-- Host address of `FRAME_LEN` (20_memory.md R32). -/
@[simp] abbrev frameLenAddr : Addr := 0x181#9

/-- Host address of `STATUS` (20_memory.md R32). -/
@[simp] abbrev statusAddr : Addr := 0x182#9

/-- The free value `draw8()` of 00_scope.md R10: draw number `k` is an 8-bit value on which there is no law.
It has no body, so nothing can be proved of any draw; two draws are independent because every draw of a run has a
number of its own (log 3). DESIGN CHOICE of form; safe for a claim about one run, unsafe for one that compares two runs. -/
opaque draw8 : Nat → Byte

/-- The platform's address of WSFP's address `a` when the platform maps the block at `base`
(60_exceptions.md R117, 93_implementation_defined.md I18: the map is relative to a base the platform chooses). -/
def platformAddress (base : Nat) (a : Addr) : Nat := base + a.toNat

end Sys2Proof.Config
end

