-- ==== Sys2Proof/Syntax.lean ====
section
/-! DEFINITION. The host transactions: one constructor per row of spec/opcode_table.json (30_encoding.md R58). -/

namespace Sys2Proof

/-- A host transaction. The operands are those 30_encoding.md R57, R61 give the word: the part of `ADDR` the row
leaves open and `DATA`. Every read carries a last operand `ignored`, the `DATA` bits that "the block ignores" (R57). -/
inductive Instr where
  /-- RD_INBUF: read `IN_BUF[i]` (42_bus_ops.md R92). -/
  | rdInbuf (i : BitVec 8) (ignored : Byte)
  /-- RD_OUTBUF: read `OUT_BUF[i]` (42_bus_ops.md R93). -/
  | rdOutbuf (i : BitVec 7) (ignored : Byte)
  /-- RD_CMD: read the command address (42_bus_ops.md R94). -/
  | rdCmd (ignored : Byte)
  /-- RD_FRAMELEN: read `FRAME_LEN` (42_bus_ops.md R95). -/
  | rdFramelen (ignored : Byte)
  /-- RD_STATUS: read `STATUS` (42_bus_ops.md R96). -/
  | rdStatus (ignored : Byte)
  /-- RD_RESULT: read the result window at offset `off` (42_bus_ops.md R97). -/
  | rdResult (off : BitVec 4) (ignored : Byte)
  /-- RD_RSVD: read a reserved address (42_bus_ops.md R98). -/
  | rdRsvd (addr : Addr) (ignored : Byte)
  /-- WR_INBUF: write `IN_BUF[i]` (42_bus_ops.md R99). -/
  | wrInbuf (i : BitVec 8) (d : Byte)
  /-- CMD_NOP (42_bus_ops.md R102). -/
  | cmdNop
  /-- CMD_DECODE (40_decode.md R66). -/
  | cmdDecode
  /-- CMD_CLEAR (42_bus_ops.md R103). -/
  | cmdClear
  /-- CMD_RSVD: write a reserved command code (42_bus_ops.md R104). -/
  | cmdRsvd (d : Byte)
  /-- WR_FRAMELEN: write `FRAME_LEN` (42_bus_ops.md R100). -/
  | wrFramelen (d : Byte)
  /-- WR_IGNORED: write a read-only, unused or reserved address (42_bus_ops.md R105). -/
  | wrIgnored (addr : Addr) (d : Byte)
deriving DecidableEq, Repr

end Sys2Proof
end

