-- ==== Sys2Proof/WellFormed.lean ====
section
/-! DEFINITION. Which terms of `Instr` are transactions of the map (30_encoding.md R58, 20_memory.md R32). -/

namespace Sys2Proof

/-- The addresses RD_RSVD selects: 0x183-0x18F and 0x1A0-0x1FF (42_bus_ops.md R98). -/
def reservedRead (a : Addr) : Bool :=
  (decide (0x183 ≤ a.toNat) && decide (a.toNat ≤ 0x18F)) || decide (0x1A0 ≤ a.toNat)

/-- The addresses WR_IGNORED selects: 0x100-0x17F and 0x182-0x1FF (42_bus_ops.md R105). -/
def ignoredWrite (a : Addr) : Bool :=
  (decide (0x100 ≤ a.toNat) && decide (a.toNat ≤ 0x17F)) || decide (0x182 ≤ a.toNat)

/-- The command codes CMD_RSVD selects: 0x03-0xFF (42_bus_ops.md R104). -/
def reservedCommand (d : Byte) : Bool := decide (3 ≤ d.toNat)

/-- A transaction of the map: an operand a row's range shuts out is refused. -/
def Instr.wf : Instr → Bool
  | .rdInbuf _ _ => true
  | .rdOutbuf _ _ => true
  | .rdCmd _ => true
  | .rdFramelen _ => true
  | .rdStatus _ => true
  | .rdResult _ _ => true
  | .rdRsvd a _ => reservedRead a
  | .wrInbuf _ _ => true
  | .cmdNop => true
  | .cmdDecode => true
  | .cmdClear => true
  | .cmdRsvd d => reservedCommand d
  | .wrFramelen _ => true
  | .wrIgnored a _ => ignoredWrite a

end Sys2Proof
end

