-- ==== Sys2Proof/Decode.lean ====
section
/-! DEFINITION. Transaction words: the decoder (first matching row of 30_encoding.md R58), the encoder, and the
rejection by name of numbers that are no 18-bit word. -/

namespace Sys2Proof

/-- The word `W[17] ADDR[16:8] DATA[7:0]` of 30_encoding.md R57: `(W << 17) | (ADDR << 8) | DATA`. -/
def busWord (isWrite : Bool) (addr : Addr) (data : Byte) : BusWord :=
  BitVec.ofBool isWrite ++ addr ++ data

/-- A read's word (W = 0). -/
def readWord (addr : Addr) (data : Byte) : BusWord := busWord false addr data

/-- A write's word (W = 1). -/
def writeWord (addr : Addr) (data : Byte) : BusWord := busWord true addr data

/-- `ADDR`, taken whole from bits 16:8 (30_encoding.md R61). -/
def wordAddr (w : BusWord) : Addr := w.extractLsb' 8 9

/-- `DATA`, taken whole from bits 7:0 (30_encoding.md R61). -/
def wordData (w : BusWord) : Byte := w.extractLsb' 0 8

/-- A row's test, `(word & mask) == match` (30_encoding.md R58). -/
def hits (w rowMask rowMatch : BusWord) : Bool := (w &&& rowMask) == rowMatch

/-- The transaction a word stands for: the first matching row of 30_encoding.md R58, in priority order. Rows 7 and 14
catch every read and every write, so the last row needs no test. -/
def decode (w : BusWord) : Instr :=
  let a := wordAddr w
  let d := wordData w
  if hits w 0x30000 0x00000 then .rdInbuf (a.setWidth 8) d
  else if hits w 0x38000 0x10000 then .rdOutbuf (a.setWidth 7) d
  else if hits w 0x3FF00 0x18000 then .rdCmd d
  else if hits w 0x3FF00 0x18100 then .rdFramelen d
  else if hits w 0x3FF00 0x18200 then .rdStatus d
  else if hits w 0x3F000 0x19000 then .rdResult (a.setWidth 4) d
  else if hits w 0x20000 0x00000 then .rdRsvd a d
  else if hits w 0x30000 0x20000 then .wrInbuf (a.setWidth 8) d
  else if hits w 0x3FFFF 0x38000 then .cmdNop
  else if hits w 0x3FFFF 0x38001 then .cmdDecode
  else if hits w 0x3FFFF 0x38002 then .cmdClear
  else if hits w 0x3FF00 0x38000 then .cmdRsvd d
  else if hits w 0x3FF00 0x38100 then .wrFramelen d
  else .wrIgnored a d

/-- The word of a transaction, from the `encoding` column of spec/opcode_table.json: the row's fixed bits, then the
open bits of `ADDR`, then `DATA`. -/
def encode : Instr → BusWord
  | .rdInbuf i d => 0b00#2 ++ i ++ d
  | .rdOutbuf i d => 0b010#3 ++ i ++ d
  | .rdCmd d => 0b0110000000#10 ++ d
  | .rdFramelen d => 0b0110000001#10 ++ d
  | .rdStatus d => 0b0110000010#10 ++ d
  | .rdResult off d => 0b011001#6 ++ off ++ d
  | .rdRsvd a d => 0b0#1 ++ a ++ d
  | .wrInbuf i d => 0b10#2 ++ i ++ d
  | .cmdNop => 0b111000000000000000#18
  | .cmdDecode => 0b111000000000000001#18
  | .cmdClear => 0b111000000000000010#18
  | .cmdRsvd d => 0b1110000000#10 ++ d
  | .wrFramelen d => 0b1110000001#10 ++ d
  | .wrIgnored a d => 0b1#1 ++ a ++ d

/-- The map of 30_encoding.md R58: each row's `mask` and `match`, in priority order. -/
def transactionMap : List (BusWord × BusWord) :=
  [(0x30000, 0x00000), (0x38000, 0x10000), (0x3FF00, 0x18000), (0x3FF00, 0x18100), (0x3FF00, 0x18200),
    (0x3F000, 0x19000), (0x20000, 0x00000)]
  ++ [(0x30000, 0x20000), (0x3FFFF, 0x38000), (0x3FFFF, 0x38001), (0x3FFFF, 0x38002), (0x3FF00, 0x38000),
    (0x3FF00, 0x38100), (0x20000, 0x20000)]

/-- A transaction's place in `transactionMap` (its priority in 30_encoding.md R58, less one). -/
def rowIndex : Instr → Nat
  | .rdInbuf _ _ => 0
  | .rdOutbuf _ _ => 1
  | .rdCmd _ => 2
  | .rdFramelen _ => 3
  | .rdStatus _ => 4
  | .rdResult _ _ => 5
  | .rdRsvd _ _ => 6
  | .wrInbuf _ _ => 7
  | .cmdNop => 8
  | .cmdDecode => 9
  | .cmdClear => 10
  | .cmdRsvd _ => 11
  | .wrFramelen _ => 12
  | .wrIgnored _ _ => 13

/-- Why a number is no transaction word. -/
inductive DecodeReject where
  /-- A bit above bit 17 is set: the bus has 18 wires (30_encoding.md R57). Every 18-bit word is a transaction (R64). -/
  | widerThanBusWord
deriving DecidableEq, Repr

/-- The transaction word that `nbits` bits of value `w` are, in the opcode table's numbering. -/
def wordOfBits (nbits w : Nat) : Except DecodeReject BusWord :=
  if w % 2 ^ nbits < 2 ^ 18 then .ok (BitVec.ofNat 18 (w % 2 ^ nbits)) else .error .widerThanBusWord

/-- Total decoding of a number: a transaction, or a rejection by name. -/
def decodeBits (nbits w : Nat) : Except DecodeReject Instr :=
  match wordOfBits nbits w with
  | .ok v => .ok (decode v)
  | .error r => .error r

/-- The instruction the decoder reads from an opcode-table word of `nbits` bits (none where it refuses). -/
def decodeTableWord (nbits w : Nat) : Option Instr :=
  match decodeBits nbits w with
  | .ok i => some i
  | .error _ => none

end Sys2Proof
end

