-- ==== Sys2Proof/Machine/State.lean ====
section
/-! DEFINITION. The state of WSFP as plain data (10_state.md R13), its reset value (R30), and how a step can stop. -/

namespace Sys2Proof.Machine

/-- `PHASE` (10_state.md R15). -/
inductive Phase where
  /-- No decode is in progress. -/
  | idle
  /-- A DECODE has been accepted and has not completed. -/
  | busy
deriving DecidableEq, Repr

/-- One pending move of an agent (10_state.md R13: host, engine, reset). -/
inductive Move where
  /-- The host performs one transaction word (42_bus_ops.md R90). -/
  | host (w : BusWord)
  /-- The engine takes its completion step, if it is enabled (40_decode.md R67). -/
  | engine
  /-- The reset input acts (70_reset_and_hazards.md R122). -/
  | reset
deriving DecidableEq, Repr

/-- What the twelve result registers hold (10_state.md R24): each register's field at the field's width. The bits above
a field are hard-wired 0, so they have no storage; the read (`Results.read`, Operands.lean) supplies them. -/
structure Results where
  /-- `R_FIN` bit 0. -/
  fin : Bool
  /-- `R_RSV1` bit 0. -/
  rsv1 : Bool
  /-- `R_RSV2` bit 0. -/
  rsv2 : Bool
  /-- `R_RSV3` bit 0. -/
  rsv3 : Bool
  /-- `R_OPCODE` bits 3:0. -/
  opcode : BitVec 4
  /-- `R_MASK` bit 0. -/
  mask : Bool
  /-- `R_PAYLOAD_LEN` bits 6:0. -/
  payloadLen : BitVec 7
  /-- `R_FRAME_LEN`. -/
  frameLen : Byte
  /-- `R_KEY0`: frame byte 2. -/
  key0 : Byte
  /-- `R_KEY1`: frame byte 3. -/
  key1 : Byte
  /-- `R_KEY2`: frame byte 4. -/
  key2 : Byte
  /-- `R_KEY3`: frame byte 5. -/
  key3 : Byte
deriving DecidableEq, Repr

/-- Every result register at 0x00, its reset value (10_state.md R24, R30). -/
def Results.zero : Results :=
  { fin := false, rsv1 := false, rsv2 := false, rsv3 := false, opcode := 0, mask := false, payloadLen := 0,
    frameLen := 0, key0 := 0, key1 := 0, key2 := 0, key3 := 0 }

/-- The bytes of the two buffers, keyed by host address: `IN_BUF` at 0x000-0x0FF, `OUT_BUF` at 0x100-0x17F
(20_memory.md R32). In canonical form (`Memory.Wf`, Ops.lean). -/
abbrev Memory := List Host.Cell

/-- The state of the machine. `phase` to `mem` are WSFP's own (10_state.md R13); `readData`, `draws` and `schedule` are
the model's, for what R13 says "a model takes as parameters". -/
structure State where
  /-- `PHASE` (R15). -/
  phase : Phase
  /-- `FRAME_LEN` (R17). -/
  frameLen : Byte
  /-- `STATUS.DONE` (R21). -/
  done : Bool
  /-- `STATUS.VALID` (R22). -/
  valid : Bool
  /-- `STATUS.ERR` (R23). -/
  err : BitVec 2
  /-- The twelve result registers (R24). -/
  results : Results
  /-- `IN_BUF` with its `WRITTEN` bits (R16) and `OUT_BUF` (R26): an address of `IN_BUF` is listed exactly when its
  `WRITTEN` bit is 1 (log 4). -/
  mem : Memory
  /-- The byte the last read returned to the host; none before the first read (log 5). -/
  readData : Option Byte
  /-- How many draw numbers have been used (log 3). -/
  draws : Nat
  /-- The moves that are pending, next first: which agent moves, and with which transaction word (log 1, log 2). -/
  schedule : List Move
deriving DecidableEq, Repr

/-- The machine right after reset (10_state.md R30), with no move pending, nothing read and no draw used. Every
`WRITTEN` bit is 0 and every `OUT_BUF` byte is 0x00, so memory lists nothing. The values of the model's own three
fields are DESIGN CHOICE (log 8). -/
def State.reset : State :=
  { phase := .idle, frameLen := 0x00, done := false, valid := false, err := 0b00, results := Results.zero, mem := [],
    readData := none, draws := 0, schedule := [] }

/-- Machine faults. There are none: no transaction raises an error (20_memory.md R42, 30_encoding.md R64,
60_exceptions.md R106) and a frame error is reported in `STATUS`, not by a stop (R111). Nobody raises one (log 9);
safe. -/
inductive Fault where
deriving DecidableEq, Repr

/-- Refusals. -/
inductive Refusal where
  /-- Raised by an arm of `exec` for an instruction that has no meaning yet; no arm raises it. Safe: a refusal proves
  nothing about the hardware. -/
  | notModelled (mnemonic : String)
deriving DecidableEq, Repr

end Sys2Proof.Machine
end

