-- ==== Sys2Proof/Machine/Operands.lean ====
section
/-! DEFINITION. Operand forms: the bit fields of frame bytes (30_encoding.md R51, R52) and the result window's
registers by offset (10_state.md R24). -/

namespace Sys2Proof.Machine

/-- `BIT(b, p)`: frame bit position `p`, counted from the most significant bit, `(b & (0x80 >> p)) != 0`
(00_scope.md R9). -/
def bitAt (b : Byte) (p : Nat) : Bool := (b &&& (0x80#8 >>> p)) != 0#8

/-- `opcode = b0 & 0x0F`, 4 bits (40_decode.md R77). -/
def opcodeField (b0 : Byte) : BitVec 4 := (b0 &&& Config.opcodeMask).setWidth 4

/-- `plen = b1 & 0x7F`, 7 bits (40_decode.md R70). -/
def payloadLenField (b1 : Byte) : BitVec 7 := (b1 &&& Config.lenMask).setWidth 7

/-- A one-bit field as its register reads: `zext_8` (40_decode.md R81, 10_state.md R24 "A bool reads 0x01 for true and
0x00 for false"). -/
def zextBool (b : Bool) : Byte := (BitVec.ofBool b).setWidth 8

/-- The byte the result window holds at an offset from 0x190 (10_state.md R24, 42_bus_ops.md R97): the twelve registers
in order, each zero-extended, and 0x00 at the unused offsets 0xC-0xF. -/
def Results.read (r : Results) (off : BitVec 4) : Byte :=
  match off.toNat with
  | 0x0 => zextBool r.fin
  | 0x1 => zextBool r.rsv1
  | 0x2 => zextBool r.rsv2
  | 0x3 => zextBool r.rsv3
  | 0x4 => r.opcode.setWidth 8
  | 0x5 => zextBool r.mask
  | 0x6 => r.payloadLen.setWidth 8
  | 0x7 => r.frameLen
  | 0x8 => r.key0
  | 0x9 => r.key1
  | 0xA => r.key2
  | 0xB => r.key3
  | _ => 0x00

/-- `masking_key[k mod 4]` (30_encoding.md R53, 41_unmask.md R85). -/
def Results.keyAt (r : Results) (k : Nat) : Byte :=
  match k % Config.keyBytes with
  | 0 => r.key0
  | 1 => r.key1
  | 2 => r.key2
  | _ => r.key3

end Sys2Proof.Machine
end

