-- ==== Sys2Proof/Machine/Flags.lean ====
section
/-! DEFINITION. `STATUS` as a word and the updates of its fields (10_state.md R19 to R23). -/

namespace Sys2Proof.Machine

/-- `STATUS` from its parts: `{0b000, ERR[1:0], VALID, DONE, (PHASE == BUSY)}` (42_bus_ops.md R96, 10_state.md R19). -/
def statusWord (phase : Phase) (done valid : Bool) (err : BitVec 2) : Byte :=
  0b000#3 ++ err ++ BitVec.ofBool valid ++ BitVec.ofBool done ++ BitVec.ofBool (decide (phase = .busy))

/-- The value a read of `STATUS` returns (42_bus_ops.md R96). -/
def State.status (s : State) : Byte := statusWord s.phase s.done s.valid s.err

/-- DONE, VALID and ERR set to 0: the common part of accept, CLEAR and reset (10_state.md R21, R22, R23). -/
def State.clearFlags (s : State) : State := { s with done := false, valid := false, err := 0b00 }

/-- VALID and ERR as a completion sets them (10_state.md R22, R23). -/
def State.setOutcome (s : State) (valid : Bool) (err : BitVec 2) : State := { s with valid := valid, err := err }

end Sys2Proof.Machine
end

