-- ==== Sys2Proof/Machine/Frame.lean ====
section
/-! DEFINITION. The pure core: the function `decode` from frame bytes to a frame or an error (00_scope.md R11,
40_decode.md R68 to R82, 41_unmask.md R84 to R87). -/

namespace Sys2Proof.Machine

/-- The three errors, the only ones (60_exceptions.md R106). -/
inductive FrameError where
  /-- Fewer than 6 bytes (R107). -/
  | malformedInput
  /-- The payload-length field is 126 or 127 (R108). -/
  | unsupportedLength
  /-- The payload-length field differs from the bytes present (R109). -/
  | inconsistentLength
deriving DecidableEq, Repr

/-- `STATUS.ERR`'s code of an error (10_state.md R23, 60_exceptions.md R106). -/
def FrameError.code : FrameError → BitVec 2
  | .malformedInput => 0b01
  | .unsupportedLength => 0b10
  | .inconsistentLength => 0b11

/-- A decoded frame (00_scope.md R11): the fields the result registers report, and the three payload views. -/
structure Frame where
  /-- frame_len, fin, rsv1, rsv2, rsv3, mask, opcode, payload_len and masking_key. -/
  fields : Results
  /-- `masked_payload` (41_unmask.md R84). -/
  masked : List Byte
  /-- `unmasked_payload` (41_unmask.md R85). -/
  unmasked : List Byte
  /-- `payload_chars`, as code points (41_unmask.md R87). -/
  chars : List Nat
deriving DecidableEq, Repr

/-- What `decode` answers (00_scope.md R11). -/
inductive FrameResult where
  | ok (f : Frame)
  | err (e : FrameError)
deriving DecidableEq, Repr

/-- The header fields of frame bytes `bytes` of which `n` are present (40_decode.md R70, R73 to R79, R82). -/
def headerFields (bytes : Nat → Byte) (n : Byte) : Results :=
  { fin := bitAt (bytes 0) 0
    rsv1 := bitAt (bytes 0) 1
    rsv2 := bitAt (bytes 0) 2
    rsv3 := bitAt (bytes 0) 3
    opcode := opcodeField (bytes 0)
    mask := bitAt (bytes 1) 0
    payloadLen := payloadLenField (bytes 1)
    frameLen := n
    key0 := bytes 2
    key1 := bytes 3
    key2 := bytes 4
    key3 := bytes 5 }

/-- `unmasked_payload[i] = bytes[6 + i] XOR masking_key[i mod 4]` (41_unmask.md R85). -/
def unmaskByte (bytes : Nat → Byte) (key : Results) (i : Nat) : Byte :=
  bytes (Config.hdrBytes + i) ^^^ key.keyAt i

/-- The character of an unmasked byte: the code point that is its value (41_unmask.md R87). -/
def codePoint (b : Byte) : Nat := b.toNat

/-- The frame of bytes that have passed the checks (40_decode.md R68; 41_unmask.md R84, R85, R87). -/
def frameOf (bytes : Nat → Byte) (n : Byte) : Frame :=
  let f := headerFields bytes n
  let m := n.toNat - Config.hdrBytes
  let unmasked := (List.range m).map (unmaskByte bytes f)
  { fields := f
    masked := (List.range m).map fun i => bytes (Config.hdrBytes + i)
    unmasked := unmasked
    chars := unmasked.map codePoint }

/-- `decode(bytes, n)` (40_decode.md R68): the three checks in their order, then the frame. -/
def decodeFrame (bytes : Nat → Byte) (n : Byte) : FrameResult :=
  if n.toNat < Config.hdrBytes then .err .malformedInput
  else
    let plen := payloadLenField (bytes 1)
    if plen = Config.ext16Mark ∨ plen = Config.ext64Mark then .err .unsupportedLength
    else if plen.toNat ≠ n.toNat - Config.hdrBytes then .err .inconsistentLength
    else .ok (frameOf bytes n)

/-- `decode` of a byte list (00_scope.md R11 gives it a list of length `n`, 0 <= n <= 255). -/
def decodeList (bs : List Byte) : FrameResult :=
  decodeFrame (fun j => bs.getD j 0) (BitVec.ofNat 8 bs.length)

end Sys2Proof.Machine
end

