-- ==== Sys2Proof/Machine/Ops.lean ====
section
/-! DEFINITION. The named operations over memory and registers, and error entry (60_exceptions.md R111), which every
meaning and the engine share. -/

namespace Sys2Proof.Machine

/-! ### Memory -/

/-- What an address reads as when memory does not list it: an `OUT_BUF` byte is 0x00, its reset value (10_state.md
R26), and an `IN_BUF` byte has no value, since it has not been written since reset (R16; log 4). -/
def Memory.unlisted (a : Nat) : Option Byte :=
  if Config.outBufBase ≤ a ∧ a < Config.outBufBase + Config.outBufBytes then some 0x00 else none

/-- The canonical form: addresses strictly rising and inside the two buffers, no entry equal to what an unlisted address
reads as. -/
abbrev Memory.Wf (m : Memory) : Prop :=
  m.Pairwise (fun x y => x.1 < y.1) ∧
    ∀ c ∈ m, c.1 < Config.outBufBase + Config.outBufBytes ∧ Memory.unlisted c.1 ≠ some c.2

/-- The byte at an address; none for an `IN_BUF` byte not written since reset. -/
def Memory.read : Memory → Nat → Option Byte
  | [], a => Memory.unlisted a
  | (k, v) :: m, a => if a = k then some v else Memory.read m a

/-- List `v` at `a`, keeping the addresses rising. -/
def Memory.put : Memory → Nat → Byte → Memory
  | [], a, v => [(a, v)]
  | (k, x) :: m, a, v =>
    if a < k then (a, v) :: (k, x) :: m
    else if a = k then (a, v) :: m
    else (k, x) :: Memory.put m a v

/-- List nothing at `a`. -/
def Memory.erase (m : Memory) (a : Nat) : Memory := m.filter fun c => c.1 ≠ a

/-- Write one byte, keeping the canonical form. -/
def Memory.write (m : Memory) (a : Nat) (v : Byte) : Memory :=
  if Memory.unlisted a = some v then m.erase a else m.put a v

/-- `for i in 0..n: [base + i] <- f i`. -/
def Memory.writeRange (m : Memory) (base : Nat) (f : Nat → Byte) : Nat → Memory
  | 0 => m
  | n + 1 => (m.writeRange base f n).write (base + n) (f n)

/-- `IN_BUF[i]` where `WRITTEN[i]` is 1, none where it is 0 (10_state.md R16). -/
def State.inByte (s : State) (i : Nat) : Option Byte := s.mem.read i

/-- The bit `WRITTEN[i]` (10_state.md R16). -/
def State.written (s : State) (i : Nat) : Bool := (s.inByte i).isSome

/-- `OUT_BUF[i]` (10_state.md R26). -/
def State.outByte (s : State) (i : Nat) : Byte := (s.mem.read (Config.outBufBase + i)).getD 0x00

/-- `IN_BUF[i] <- d; WRITTEN[i] <- 1` (42_bus_ops.md R99). -/
def State.storeIn (s : State) (i : Nat) (d : Byte) : State := { s with mem := s.mem.write i d }

/-- `for i in 0..128: OUT_BUF[i] <- f i`. -/
def State.storeOut (s : State) (f : Nat → Byte) : State :=
  { s with mem := s.mem.writeRange Config.outBufBase f Config.outBufBytes }

/-! ### The host's side of a transaction -/

/-- A read returns `v` to the host. -/
def State.respond (s : State) (v : Byte) : State := { s with readData := some v }

/-- A read returns a draw: `v <- draw8()`, a free value of its own number (00_scope.md R10; log 3). -/
def State.respondDraw (s : State) : State :=
  { s with readData := some (Config.draw8 s.draws), draws := s.draws + 1 }

/-- What a host write or command does: `f` while IDLE, nothing while BUSY (70_reset_and_hazards.md R127, R128). -/
def State.whenIdle (s : State) (f : State → State) : State :=
  match s.phase with
  | .idle => f s
  | .busy => s

/-! ### Registers -/

/-- `FRAME_LEN <- d` (42_bus_ops.md R100). -/
def State.setFrameLen (s : State) (d : Byte) : State := { s with frameLen := d }

/-- The twelve result registers <- `r`. -/
def State.setResults (s : State) (r : Results) : State := { s with results := r }

/-- `PHASE <- p`. -/
def State.setPhase (s : State) (p : Phase) : State := { s with phase := p }

/-- Result registers and `OUT_BUF` <- 0x00: the common part of CLEAR (42_bus_ops.md R103), error entry (60_exceptions.md
R111) and reset. -/
def State.clearResults (s : State) : State := (s.setResults Results.zero).storeOut fun _ => 0x00

/-- The effect of an accepted DECODE (40_decode.md R66). -/
def State.accept (s : State) : State := s.clearFlags.setPhase .busy

/-- The effect of CLEAR while IDLE (42_bus_ops.md R103). -/
def State.clear (s : State) : State := s.clearFlags.clearResults

/-- `publish(f)` (40_decode.md R81; 41_unmask.md R85, R86). -/
def State.publish (s : State) (f : Frame) : State :=
  ((s.setResults f.fields).storeOut fun i => f.unmasked.getD i 0x00).setOutcome true 0b00

/-- `error_entry(e)` (60_exceptions.md R111), WSFP's taking of an exception: results and `OUT_BUF` zeroed, VALID 0, ERR
the code; no saved state, no vector. There is no return from it (R112). -/
def State.errorEntry (s : State) (e : FrameError) : State := s.clearResults.setOutcome false e.code

/-- The reset event (70_reset_and_hazards.md R122): every piece of WSFP's state at its value of 10_state.md R30. The
model's own fields are not WSFP state and stay. -/
def State.resetEvent (s : State) : State :=
  { s with
    phase := .idle, frameLen := 0x00, done := false, valid := false, err := 0b00, results := Results.zero, mem := [] }

end Sys2Proof.Machine
end

