-- ==== Sys2Proof/Machine/Commands.lean ====
section
/-! DEFINITION. The commands: writes to `CMD` (42_bus_ops.md R101 to R104, 40_decode.md R66). While BUSY every one of
them is ignored (70_reset_and_hazards.md R128). -/

namespace Sys2Proof.Machine

/-- CMD_NOP (42_bus_ops.md R102): no effect. -/
def execCmdNop (s : State) : Host.Outcome State Fault Refusal := .next s

/-- CMD_DECODE (40_decode.md R66): accept a decode; ignored while BUSY, not queued. -/
def execCmdDecode (s : State) : Host.Outcome State Fault Refusal := .next (s.whenIdle State.accept)

/-- CMD_CLEAR (42_bus_ops.md R103). -/
def execCmdClear (s : State) : Host.Outcome State Fault Refusal := .next (s.whenIdle State.clear)

/-- CMD_RSVD (42_bus_ops.md R104, 30_encoding.md R60): no effect. -/
def execCmdRsvd (_d : Byte) (s : State) : Host.Outcome State Fault Refusal := .next s

end Sys2Proof.Machine
end

