-- ==== Sys2Proof/Machine/Reads.lean ====
section
/-! DEFINITION. The reads (42_bus_ops.md R91 to R98): each returns 8 bits to the host and changes no WSFP state. -/

namespace Sys2Proof.Machine

/-- RD_INBUF (42_bus_ops.md R92): the byte if written since reset, else a draw; the same while BUSY. -/
def execRdInbuf (i : BitVec 8) (_ignored : Byte) (s : State) : Host.Outcome State Fault Refusal :=
  match s.inByte i.toNat with
  | some v => .next (s.respond v)
  | none => .next s.respondDraw

/-- RD_OUTBUF (42_bus_ops.md R93, 70_reset_and_hazards.md R126). -/
def execRdOutbuf (i : BitVec 7) (_ignored : Byte) (s : State) : Host.Outcome State Fault Refusal :=
  match s.phase with
  | .idle => .next (s.respond (s.outByte i.toNat))
  | .busy => .next s.respondDraw

/-- RD_CMD (42_bus_ops.md R94). -/
def execRdCmd (_ignored : Byte) (s : State) : Host.Outcome State Fault Refusal := .next (s.respond 0x00)

/-- RD_FRAMELEN (42_bus_ops.md R95). -/
def execRdFramelen (_ignored : Byte) (s : State) : Host.Outcome State Fault Refusal := .next (s.respond s.frameLen)

/-- RD_STATUS (42_bus_ops.md R96). -/
def execRdStatus (_ignored : Byte) (s : State) : Host.Outcome State Fault Refusal := .next (s.respond s.status)

/-- RD_RESULT (42_bus_ops.md R97, 70_reset_and_hazards.md R126): the unused offsets 0xC-0xF read 0x00 in every state. -/
def execRdResult (off : BitVec 4) (_ignored : Byte) (s : State) : Host.Outcome State Fault Refusal :=
  if 0xC ≤ off.toNat then .next (s.respond 0x00)
  else
    match s.phase with
    | .busy => .next s.respondDraw
    | .idle => .next (s.respond (s.results.read off))

/-- RD_RSVD (42_bus_ops.md R98). -/
def execRdRsvd (_addr : Addr) (_ignored : Byte) (s : State) : Host.Outcome State Fault Refusal := .next (s.respond 0x00)

end Sys2Proof.Machine
end

