-- ==== Sys2Proof/Machine/Writes.lean ====
section
/-! DEFINITION. The writes that are no commands (42_bus_ops.md R99, R100, R105). -/

namespace Sys2Proof.Machine

/-- WR_INBUF (42_bus_ops.md R99): dropped while BUSY (70_reset_and_hazards.md R127). -/
def execWrInbuf (i : BitVec 8) (d : Byte) (s : State) : Host.Outcome State Fault Refusal :=
  .next (s.whenIdle fun s => s.storeIn i.toNat d)

/-- WR_FRAMELEN (42_bus_ops.md R100): dropped while BUSY (70_reset_and_hazards.md R127). -/
def execWrFramelen (d : Byte) (s : State) : Host.Outcome State Fault Refusal :=
  .next (s.whenIdle fun s => s.setFrameLen d)

/-- WR_IGNORED (42_bus_ops.md R105): no effect, in every state. -/
def execWrIgnored (_addr : Addr) (_d : Byte) (s : State) : Host.Outcome State Fault Refusal := .next s

end Sys2Proof.Machine
end

