-- ==== Sys2Proof/Machine/Dispatch.lean ====
section
/-! DEFINITION. One arm per transaction: the meaning that performs it (42_bus_ops.md R90). -/

namespace Sys2Proof.Machine

/-- What a transaction does. -/
def exec (i : Instr) (s : State) : Host.Outcome State Fault Refusal :=
  match i with
  | .rdInbuf j d => Sys2Proof.Machine.execRdInbuf j d s
  | .rdOutbuf j d => Sys2Proof.Machine.execRdOutbuf j d s
  | .rdCmd d => Sys2Proof.Machine.execRdCmd d s
  | .rdFramelen d => Sys2Proof.Machine.execRdFramelen d s
  | .rdStatus d => Sys2Proof.Machine.execRdStatus d s
  | .rdResult off d => Sys2Proof.Machine.execRdResult off d s
  | .rdRsvd a d => Sys2Proof.Machine.execRdRsvd a d s
  | .wrInbuf j d => Sys2Proof.Machine.execWrInbuf j d s
  | .cmdNop => Sys2Proof.Machine.execCmdNop s
  | .cmdDecode => Sys2Proof.Machine.execCmdDecode s
  | .cmdClear => Sys2Proof.Machine.execCmdClear s
  | .cmdRsvd d => Sys2Proof.Machine.execCmdRsvd d s
  | .wrFramelen d => Sys2Proof.Machine.execWrFramelen d s
  | .wrIgnored a d => Sys2Proof.Machine.execWrIgnored a d s

end Sys2Proof.Machine
end

