-- ==== Sys2Proof/Machine/Engine.lean ====
section
/-! DEFINITION. The engine's only step, the completion of an accepted DECODE (40_decode.md R67). -/

namespace Sys2Proof.Machine

/-- `rdIN(j)`: `IN_BUF[j]` if written, else a draw of byte `j`'s own number (40_decode.md R67; log 3). -/
def State.engineByte (s : State) (j : Nat) : Byte := (s.inByte j).getD (Config.draw8 (s.draws + j))

/-- `r <- decode(rdIN, FRAME_LEN)` (40_decode.md R67). -/
def State.frameResult (s : State) : FrameResult := decodeFrame s.engineByte s.frameLen

/-- `publish` or `error_entry`, as `decode` answered (40_decode.md R67). -/
def State.report (s : State) : FrameResult → State
  | .ok f => s.publish f
  | .err e => s.errorEntry e

/-- The end of a completion: DONE 1, PHASE IDLE, and the draw numbers of the `FRAME_LEN` bytes used up. -/
def State.finish (s : State) : State :=
  { s with done := true, phase := .idle, draws := s.draws + s.frameLen.toNat }

/-- The completion step, one atomic transition (40_decode.md R67). -/
def State.complete (s : State) : State := (s.report s.frameResult).finish

/-- The engine's move: the completion where it is enabled, "exactly when PHASE == BUSY" (40_decode.md R67), and no step
where it is not (log 2). -/
def State.engineMove (s : State) : State :=
  match s.phase with
  | .busy => s.complete
  | .idle => s

end Sys2Proof.Machine
end

