-- ==== Sys2Proof/Machine/Step.lean ====
section
/-! DEFINITION. One step: the move of one agent, as the schedule says (10_state.md R13; log 1, log 2). -/

namespace Sys2Proof.Machine

/-- One step. The head of the schedule moves: the host performs its transaction word (42_bus_ops.md R90), the engine
completes (40_decode.md R67), or the reset input acts (70_reset_and_hazards.md R122). When no move is pending only the
engine can move, if it is enabled: weak fairness (R131; log 2). -/
def step (s : State) : Host.Outcome State Fault Refusal :=
  match s.schedule with
  | [] => .next s.engineMove
  | .host w :: rest => exec (decode w) { s with schedule := rest }
  | .engine :: rest => .next ({ s with schedule := rest } : State).engineMove
  | .reset :: rest => .next ({ s with schedule := rest } : State).resetEvent

/-- `s` with the transaction of an opcode-table word placed before every pending move, so that the next step is the host
performing it; nothing else changes. A number that is no 18-bit word places nothing (log 10). -/
def State.withFetchWord (s : State) (nbits w : Nat) : State :=
  match wordOfBits nbits w with
  | .ok v => { s with schedule := .host v :: s.schedule }
  | .error _ => s

end Sys2Proof.Machine
end

