-- ==== Sys2Proof/Machine/Assembler.lean ====
section
/-! DEFINITION. The assembler of 30_encoding.md section 3: address symbols, RD and WR lines and their words, the
pseudo-instructions and their expansions (R61, R62, R63). Names of host variables and labels are numbers (log 11). -/

namespace Sys2Proof.Machine

/-- The result-register symbols, in the order of their addresses (30_encoding.md R62). -/
inductive ResultName where
  | rFin | rRsv1 | rRsv2 | rRsv3 | rOpcode | rMask | rPayloadLen | rFrameLen | rKey0 | rKey1 | rKey2 | rKey3
deriving DecidableEq, Repr

/-- A register's offset from 0x190 (10_state.md R24). -/
def ResultName.offset : ResultName → Nat
  | .rFin => 0x0
  | .rRsv1 => 0x1
  | .rRsv2 => 0x2
  | .rRsv3 => 0x3
  | .rOpcode => 0x4
  | .rMask => 0x5
  | .rPayloadLen => 0x6
  | .rFrameLen => 0x7
  | .rKey0 => 0x8
  | .rKey1 => 0x9
  | .rKey2 => 0xA
  | .rKey3 => 0xB

/-- An `<addr>` of an RD or WR line: a number or a symbol (30_encoding.md R62). -/
inductive AsmAddr where
  | num (n : Nat)
  | inBuf (i : Nat)
  | outBuf (i : Nat)
  | cmd
  | frameLen
  | status
  | result (r : ResultName)
deriving DecidableEq, Repr

/-- The number an `<addr>` stands for; none for an index outside its buffer (30_encoding.md R62). -/
def AsmAddr.number : AsmAddr → Option Nat
  | .num n => some n
  | .inBuf i => if i < Config.inBufBytes then some i else none
  | .outBuf i => if i < Config.outBufBytes then some (Config.outBufBase + i) else none
  | .cmd => some 0x180
  | .frameLen => some 0x181
  | .status => some 0x182
  | .result r => some (0x190 + r.offset)

/-- The address, if it is one: the assembler rejects an `ADDR` outside 0x000-0x1FF (30_encoding.md R61). -/
def AsmAddr.resolve (a : AsmAddr) : Option Addr :=
  match a.number with
  | some n => if n ≤ 0x1FF then some (BitVec.ofNat 9 n) else none
  | none => none

/-- The word of `RD <addr>`: the assembler writes 0 in `DATA` (30_encoding.md R57). -/
def assembleRd (a : AsmAddr) : Option BusWord :=
  match a.resolve with
  | some n => some (readWord n 0x00)
  | none => none

/-- The word of `WR <addr>, <data>`: a `DATA` outside 0x00-0xFF is rejected (30_encoding.md R61). -/
def assembleWr (a : AsmAddr) (d : Nat) : Option BusWord :=
  match a.resolve with
  | some n => if d ≤ 0xFF then some (writeWord n (BitVec.ofNat 8 d)) else none
  | none => none

/-- One line of a host program (30_encoding.md R62). -/
inductive HostLine where
  /-- `RD <addr> -> <vname>` -/
  | rd (a : AsmAddr) (v : Nat)
  /-- `WR <addr>, <data>` -/
  | wr (a : AsmAddr) (d : Nat)
  /-- `<label>:` -/
  | label (l : Nat)
  /-- `BNZ <vname>, <bit>, <label>` -/
  | bnz (v bit l : Nat)
  /-- `BZ <vname>, <bit>, <label>` -/
  | bz (v bit l : Nat)
deriving DecidableEq, Repr

/-- The pseudo-instructions (30_encoding.md R63). WAIT names the variable it reads into and its fresh label. -/
inductive Pseudo where
  | nop
  | decode
  | clear
  | setlen (n : Nat)
  | load (i b : Nat)
  | loadframe (bs : List Nat)
  | wait (v l : Nat)
deriving DecidableEq, Repr

/-- `LOAD i, b0`, `LOAD i+1, b1`, ... -/
def loadLines (i : Nat) : List Nat → List HostLine
  | [] => []
  | b :: bs => .wr (.inBuf i) b :: loadLines (i + 1) bs

/-- A pseudo-instruction's expansion (30_encoding.md R63). -/
def Pseudo.expand : Pseudo → List HostLine
  | .nop => [.wr .cmd 0x00]
  | .decode => [.wr .cmd 0x01]
  | .clear => [.wr .cmd 0x02]
  | .setlen n => [.wr .frameLen n]
  | .load i b => [.wr (.inBuf i) b]
  | .loadframe bs => loadLines 0 bs ++ [.wr .frameLen bs.length]
  | .wait v l => [.label l, .rd .status v, .bnz v 0 l]

/-- The words of a list of lines, in order. Only RD and WR lines have words (30_encoding.md R62); none where the
assembler rejects a line. -/
def assemble : List HostLine → Option (List BusWord)
  | [] => some []
  | .rd a _ :: ls =>
    match assembleRd a, assemble ls with
    | some w, some ws => some (w :: ws)
    | _, _ => none
  | .wr a d :: ls =>
    match assembleWr a d, assemble ls with
    | some w, some ws => some (w :: ws)
    | _, _ => none
  | .label _ :: ls => assemble ls
  | .bnz _ _ _ :: ls => assemble ls
  | .bz _ _ _ :: ls => assemble ls

end Sys2Proof.Machine
end

