-- ==== Sys2Proof/Machine/HostProgram.lean ====
section
/-! DEFINITION. A host program running beside the block (30_encoding.md R62, 42_bus_ops.md R90). The program text, the
host's variables and its control flow are host state, not WSFP state (10_state.md R13), so they stand outside `State`;
only RD and WR lines reach the block, each as one step of it. -/

namespace Sys2Proof.Machine

/-- A host and its block. -/
structure HostRun where
  /-- The program text. -/
  program : List HostLine
  /-- The next line. -/
  line : Nat
  /-- The bytes the host has kept, by variable. -/
  vars : List (Nat × Byte)
  /-- The block. -/
  block : State
deriving DecidableEq, Repr

/-- Who takes the next turn: the host's program or the block's own agents (10_state.md R13). -/
inductive Turn where
  | host
  | engine
  | reset
deriving DecidableEq, Repr

/-- The block makes one move: its step with that move placed first. -/
def State.move (s : State) (m : Move) : Host.Outcome State Fault Refusal :=
  step { s with schedule := m :: s.schedule }

/-- The line after a label, if the program has it. Where a label stands on several lines, of which 30_encoding.md R62 says
nothing, the first one counts. DESIGN CHOICE; unsafe for a claim about a program with a repeated label (log 11). -/
def labelLine (l : Nat) : List HostLine → Option Nat
  | [] => none
  | x :: ls => if x = .label l then some 1 else (labelLine l ls).map (· + 1)

/-- `v <- b` among the host's variables. -/
def setVar (vars : List (Nat × Byte)) (v : Nat) (b : Byte) : List (Nat × Byte) :=
  (v, b) :: vars.filter fun x => x.1 ≠ v

/-- A branch: to the label if `taken`, else to the next line; to the first where the label is repeated, none where it is
missing (log 11). -/
def HostRun.branch (r : HostRun) (taken : Bool) (l : Nat) : Option HostRun :=
  if taken then (labelLine l r.program).map fun n => { r with line := n } else some { r with line := r.line + 1 }

/-- The block performs an RD or WR line's word and the host goes to its next line. -/
def HostRun.transact (r : HostRun) (w : Option BusWord) : Option HostRun :=
  match w with
  | none => none
  | some w =>
    match r.block.move (.host w) with
    | .next b => some { r with block := b, line := r.line + 1 }
    | .fault _ => none
    | .refused _ => none

/-- The host keeps the byte a read returned as `v`. -/
def HostRun.keep (v : Nat) (r : HostRun) : HostRun :=
  match r.block.readData with
  | some b => { r with vars := setVar r.vars v b }
  | none => r

/-- The host's turn: one line. None where the program is over, a line is rejected, or a branch reads a variable no read
has filled or names a missing label (log 11). -/
def HostRun.hostTurn (r : HostRun) : Option HostRun :=
  match r.program[r.line]? with
  | none => none
  | some (.rd a v) => (r.transact (assembleRd a)).map (HostRun.keep v)
  | some (.wr a d) => r.transact (assembleWr a d)
  | some (.label _) => some { r with line := r.line + 1 }
  | some (.bnz v bit l) =>
    match r.vars.lookup v with
    | some b => r.branch (b.getLsbD bit) l
    | none => none
  | some (.bz v bit l) =>
    match r.vars.lookup v with
    | some b => r.branch (!b.getLsbD bit) l
    | none => none

/-- One turn. -/
def HostRun.turn (r : HostRun) : Turn → Option HostRun
  | .host => r.hostTurn
  | .engine =>
    match r.block.move .engine with
    | .next b => some { r with block := b }
    | .fault _ => none
    | .refused _ => none
  | .reset =>
    match r.block.move .reset with
    | .next b => some { r with block := b }
    | .fault _ => none
    | .refused _ => none

/-- A host and its block after a list of turns. -/
def HostRun.turns (r : HostRun) : List Turn → Option HostRun
  | [] => some r
  | t :: ts =>
    match r.turn t with
    | some r' => r'.turns ts
    | none => none

end Sys2Proof.Machine
end

