-- ==== Sys2Proof/Safety.lean ====
section
/-! DEFINITION. The terms claims are stated in: runs, what two states have in common, and what holds in every state a
run reaches. -/

namespace Sys2Proof.Machine

/-- `k` steps, stopping at a fault or a refusal. -/
def runSteps : Nat → State → Host.Outcome State Fault Refusal
  | 0, s => .next s
  | k + 1, s =>
    match step s with
    | .next t => runSteps k t
    | .fault r => .fault r
    | .refused r => .refused r

/-- Some schedule takes the machine from reset to `s`. -/
def Reachable (s : State) : Prop :=
  ∃ moves k, runSteps k { State.reset with schedule := moves } = .next s

/-- `t` has `s`'s input side: `FRAME_LEN`, every byte of `IN_BUF` and every `WRITTEN` bit. -/
structure SameInput (s t : State) : Prop where
  frameLen : t.frameLen = s.frameLen
  inBuf : ∀ i < 256, t.inByte i = s.inByte i

/-- `t` has `s`'s DONE, VALID and ERR. -/
structure SameFlags (s t : State) : Prop where
  done : t.done = s.done
  valid : t.valid = s.valid
  err : t.err = s.err

/-- `t` has `s`'s result side: the twelve result registers and every byte of `OUT_BUF`. -/
structure SameResults (s t : State) : Prop where
  regs : t.results = s.results
  outBuf : ∀ i < 128, t.outByte i = s.outByte i

/-- `t` has all of `s`'s WSFP state (10_state.md R13), every byte of memory included. -/
structure SameBlock (s t : State) : Prop where
  phase : t.phase = s.phase
  frameLen : t.frameLen = s.frameLen
  flags : SameFlags s t
  regs : t.results = s.results
  mem : ∀ a, t.mem.read a = s.mem.read a

/-- `t` has `s`'s pending moves, draw counter and byte returned to the host: the model's own fields. -/
structure SameHostSide (s t : State) : Prop where
  readData : t.readData = s.readData
  draws : t.draws = s.draws
  schedule : t.schedule = s.schedule

/-- A read has returned `v` and used no draw. -/
structure Returned (s t : State) (v : Byte) : Prop where
  readData : t.readData = some v
  draws : t.draws = s.draws
  schedule : t.schedule = s.schedule

/-- A read has returned a draw of a number of its own: a free value (00_scope.md R10 `draw8()`; log 3). -/
structure ReturnedDraw (s t : State) : Prop where
  readData : t.readData = some (Config.draw8 s.draws)
  draws : t.draws = s.draws + 1
  schedule : t.schedule = s.schedule

/-- The result side is blank, as reset, CLEAR and an error leave it (10_state.md R30, 42_bus_ops.md R103,
60_exceptions.md R111). -/
structure ResultsBlank (s : State) : Prop where
  regs : s.results = Results.zero
  outBuf : ∀ i < 128, s.outByte i = 0x00

/-- The result side is a frame's, as an Ok completion leaves it: a short payload length that agrees with the frame
length (40_decode.md R72, R82) and nothing past the payload (41_unmask.md R86). -/
structure ResultsOfFrame (s : State) : Prop where
  length : s.results.frameLen.toNat = s.results.payloadLen.toNat + 6
  short : s.results.payloadLen.toNat ≤ 125
  tail : ∀ i, s.results.payloadLen.toNat ≤ i → i < 128 → s.outByte i = 0x00

/-- It is the engine's turn, with `rest` pending after it: its move is next, or no move is pending (log 2). -/
def EngineTurn (s : State) (rest : List Move) : Prop :=
  s.schedule = .engine :: rest ∨ (s.schedule = [] ∧ rest = [])

/-- `t` is `s` after a completion that reported an error with the given `STATUS`: the result side blank, the input side
kept (60_exceptions.md R111). -/
structure ReportedError (s t : State) (status : Byte) : Prop where
  status : t.status = status
  results : ResultsBlank t
  input : SameInput s t

/-- `t`'s `STATUS`, result registers and `OUT_BUF` are those of `decode`'s answer (40_decode.md R81, 60_exceptions.md
R106, R111). -/
def Shows (t : State) : FrameResult → Prop
  | .ok f => t.status = 0x06 ∧ t.results = f.fields ∧ ∀ i < 128, t.outByte i = f.unmasked.getD i 0x00
  | .err .malformedInput => t.status = 0x0A ∧ ResultsBlank t
  | .err .unsupportedLength => t.status = 0x12 ∧ ResultsBlank t
  | .err .inconsistentLength => t.status = 0x1A ∧ ResultsBlank t

/-- The values of `STATUS` that 10_state.md R19 calls reachable. -/
def reachableStatus : List Byte := [0x00, 0x01, 0x06, 0x0A, 0x12, 0x1A]

/-- What holds in every state a run reaches: memory in canonical form, `STATUS` one of its six values (10_state.md
R19), and a result side that is blank or a frame's, as VALID says (R22, R25). -/
structure Inv (s : State) : Prop where
  memory : s.mem.Wf
  status : s.status ∈ reachableStatus
  results : ResultsBlank s ∨ ResultsOfFrame s
  blank : s.phase = .idle → s.valid = false → ResultsBlank s
  frame : s.valid = true → ResultsOfFrame s

/-- A safe run: from `s`, no number of steps stops or leaves the invariant. -/
def SafeRun (s : State) : Prop := ∀ k, ∃ t, runSteps k s = .next t ∧ Inv t

end Sys2Proof.Machine
end

