-- ==== Sys2Proof/Certificates/Slice0/Obligations.lean ====
section
/-! DEFINITION. The statements for the provers, file by file of the spec's rules. -/

open Sys2Proof Sys2Proof.Machine

/-! ### Transaction words (30_encoding.md) -/

/-- 30_encoding.md R58, R61: no bit of a transaction is lost between its word and its decoding. -/
def Obligations.EncodeThenDecodeIsIdentity : Prop :=
  ∀ i : Instr, i.wf = true → decode (encode i) = i

/-- 30_encoding.md R64: every word is exactly one transaction of the map, and the transaction gives the word back. -/
def Obligations.EveryWordIsOneTransaction : Prop :=
  ∀ w : BusWord, (decode w).wf = true ∧ encode (decode w) = w

/-- 30_encoding.md R58: the first row of the map, in priority order, whose test a word passes is the row of the word's
transaction; some row always passes. -/
def Obligations.FirstMatchingRowIsTaken : Prop :=
  ∀ w : BusWord,
    ([(0x30000, 0x00000), (0x38000, 0x10000), (0x3FF00, 0x18000), (0x3FF00, 0x18100), (0x3FF00, 0x18200),
      (0x3F000, 0x19000), (0x20000, 0x00000), (0x30000, 0x20000), (0x3FFFF, 0x38000), (0x3FFFF, 0x38001),
      (0x3FFFF, 0x38002), (0x3FF00, 0x38000), (0x3FF00, 0x38100), (0x20000, 0x20000)] : List (BusWord × BusWord)).findIdx?
        (fun row => (w &&& row.1) == row.2) = some (rowIndex (decode w))

/-- 30_encoding.md R58 (column "selects") and 20_memory.md R32: the transaction of every read address. -/
def Obligations.ReadAddressSelectsTransaction : Prop :=
  ∀ (a : Addr) (d : Byte),
    (a.toNat < 0x100 → decode (readWord a d) = .rdInbuf (a.setWidth 8) d) ∧
    (0x100 ≤ a.toNat → a.toNat < 0x180 → decode (readWord a d) = .rdOutbuf (a.setWidth 7) d) ∧
    (a.toNat = 0x180 → decode (readWord a d) = .rdCmd d) ∧
    (a.toNat = 0x181 → decode (readWord a d) = .rdFramelen d) ∧
    (a.toNat = 0x182 → decode (readWord a d) = .rdStatus d) ∧
    (0x183 ≤ a.toNat → a.toNat < 0x190 → decode (readWord a d) = .rdRsvd a d) ∧
    (0x190 ≤ a.toNat → a.toNat < 0x1A0 → decode (readWord a d) = .rdResult (a.setWidth 4) d) ∧
    (0x1A0 ≤ a.toNat → decode (readWord a d) = .rdRsvd a d)

/-- 30_encoding.md R58 (column "selects"), R59 and 20_memory.md R32: the transaction of every write address and command
code. -/
def Obligations.WriteAddressSelectsTransaction : Prop :=
  ∀ (a : Addr) (d : Byte),
    (a.toNat < 0x100 → decode (writeWord a d) = .wrInbuf (a.setWidth 8) d) ∧
    (0x100 ≤ a.toNat → a.toNat < 0x180 → decode (writeWord a d) = .wrIgnored a d) ∧
    (a.toNat = 0x180 → d = 0 → decode (writeWord a d) = .cmdNop) ∧
    (a.toNat = 0x180 → d = 1 → decode (writeWord a d) = .cmdDecode) ∧
    (a.toNat = 0x180 → d = 2 → decode (writeWord a d) = .cmdClear) ∧
    (a.toNat = 0x180 → 3 ≤ d.toNat → decode (writeWord a d) = .cmdRsvd d) ∧
    (a.toNat = 0x181 → decode (writeWord a d) = .wrFramelen d) ∧
    (0x182 ≤ a.toNat → decode (writeWord a d) = .wrIgnored a d)

/-- 30_encoding.md R57, R61: the fields of a word and where they lie. -/
def Obligations.WordPacksItsFields : Prop :=
  ∀ (isWrite : Bool) (a : Addr) (d : Byte),
    (busWord isWrite a d).toNat = (isWrite.toNat <<< 17) ||| (a.toNat <<< 8) ||| d.toNat ∧
    wordAddr (busWord isWrite a d) = a ∧ wordData (busWord isWrite a d) = d

/-- 95_test_vectors.md section 3 and 30_encoding.md R58: words the spec writes out decode to the transactions they stand
for. That 0x40000, no 18-bit word, is refused is the model's choice (log 10). -/
def Obligations.WordsOfTheSpecDecode : Prop :=
  decodeTableWord 24 0x20610 = some (.wrInbuf 6 0x10) ∧ decodeTableWord 24 0x38108 = some (.wrFramelen 0x08) ∧
  decodeTableWord 24 0x38001 = some .cmdDecode ∧ decodeTableWord 24 0x18200 = some (.rdStatus 0) ∧
  decodeTableWord 24 0x19400 = some (.rdResult 4 0) ∧ decodeTableWord 24 0x10100 = some (.rdOutbuf 1 0) ∧
  decodeTableWord 24 0x00600 = some (.rdInbuf 6 0) ∧ decodeTableWord 24 0x38002 = some .cmdClear ∧
  decodeTableWord 24 0x40000 = none

/-- 30_encoding.md R63: the words of the pseudo-instructions. -/
def Obligations.PseudoInstructionsHaveTheirWords : Prop :=
  assemble Pseudo.nop.expand = some [0x38000] ∧ assemble Pseudo.decode.expand = some [0x38001] ∧
  assemble Pseudo.clear.expand = some [0x38002] ∧
  (∀ v l, assemble (Pseudo.wait v l).expand = some [0x18200]) ∧
  (∀ n, n ≤ 255 → assemble (Pseudo.setlen n).expand = some [BitVec.ofNat 18 (0x38100 + n)]) ∧
  (∀ i b, i ≤ 255 → b ≤ 255 → assemble (Pseudo.load i b).expand = some [BitVec.ofNat 18 (0x20000 + (i <<< 8) + b)]) ∧
  ∀ bs : List Nat, bs.length ≤ 255 → (∀ b ∈ bs, b ≤ 255) →
    assemble (Pseudo.loadframe bs).expand =
      some ((List.range bs.length).map (fun i => BitVec.ofNat 18 (0x20000 + (i <<< 8) + bs.getD i 0)) ++
        [BitVec.ofNat 18 (0x38100 + bs.length)])

/-- 30_encoding.md R61, R62: the assembler rejects an address outside 0x000-0x1FF, an index outside its buffer and a datum
outside 0x00-0xFF, and no other. -/
def Obligations.AssemblerRejectsOutOfRange : Prop :=
  (∀ n, (assembleRd (.num n)).isSome = decide (n ≤ 0x1FF)) ∧
  (∀ n d, (assembleWr (.num n) d).isSome = (decide (n ≤ 0x1FF) && decide (d ≤ 0xFF))) ∧
  (∀ i, (assembleRd (.inBuf i)).isSome = decide (i < 256)) ∧
  ∀ i, (assembleRd (.outBuf i)).isSome = decide (i < 128)

/-! ### The step (42_bus_ops.md R90; logs 1, 2) -/

/-- 42_bus_ops.md R90: a host step performs the transaction its word decodes to. That the word comes from the schedule is
the model's choice (log 1). -/
def Obligations.StepPerformsTheDecodedTransaction : Prop :=
  (∀ s w rest, s.schedule = .host w :: rest → step s = exec (decode w) { s with schedule := rest }) ∧
  (∀ (s : State) (w : Nat) (i : Instr), decodeTableWord 24 w = some i → step (s.withFetchWord 24 w) = exec i s) ∧
  ∀ (s : State) (i : Instr), i.wf = true → step (s.withFetchWord 24 (encode i).toNat) = exec i s

/-- 20_memory.md R42, 30_encoding.md R64, 42_bus_ops.md R90: no step and no transaction ever stops the machine. -/
def Obligations.EveryStepAnswersANextState : Prop :=
  (∀ s, ∃ t, step s = .next t) ∧ ∀ i s, ∃ t, exec i s = .next t

/-! ### Reads (42_bus_ops.md R92 to R98) -/

/-- 42_bus_ops.md R92, 10_state.md R16: RD_INBUF, in every state. -/
def Obligations.ReadInBufReturnsWrittenByteOrDraw : Prop :=
  ∀ (s : State) (i : BitVec 8) (d : Byte), ∃ t, exec (.rdInbuf i d) s = .next t ∧ SameBlock s t ∧
    (∀ v, s.inByte i.toNat = some v → Returned s t v) ∧ (s.written i.toNat = false → ReturnedDraw s t)

/-- 42_bus_ops.md R93: RD_OUTBUF, in every state. -/
def Obligations.ReadOutBufReturnsByteOrDraw : Prop :=
  ∀ (s : State) (i : BitVec 7) (d : Byte), ∃ t, exec (.rdOutbuf i d) s = .next t ∧ SameBlock s t ∧
    (s.phase = .idle → Returned s t (s.outByte i.toNat)) ∧ (s.phase = .busy → ReturnedDraw s t)

/-- 42_bus_ops.md R94, R98: RD_CMD and RD_RSVD return 0x00 in every state. -/
def Obligations.ReadCmdAndReservedReturnZero : Prop :=
  ∀ (s : State) (a : Addr) (d : Byte),
    (∃ t, exec (.rdCmd d) s = .next t ∧ SameBlock s t ∧ Returned s t 0x00) ∧
    ∃ t, exec (.rdRsvd a d) s = .next t ∧ SameBlock s t ∧ Returned s t 0x00

/-- 42_bus_ops.md R95: RD_FRAMELEN, in every state. -/
def Obligations.ReadFrameLenReturnsRegister : Prop :=
  ∀ (s : State) (d : Byte), ∃ t, exec (.rdFramelen d) s = .next t ∧ SameBlock s t ∧ Returned s t s.frameLen

/-- 42_bus_ops.md R96, 10_state.md R19, R20: RD_STATUS, in every state: bit 0 BUSY, bit 1 DONE, bit 2 VALID, bits 4:3 ERR,
bits 7:5 zero. -/
def Obligations.ReadStatusReturnsItsFields : Prop :=
  ∀ (s : State) (d : Byte), ∃ t v, exec (.rdStatus d) s = .next t ∧ SameBlock s t ∧ Returned s t v ∧
    v.toNat = (if s.phase = .busy then 1 else 0) + 2 * s.done.toNat + 4 * s.valid.toNat + 8 * s.err.toNat

/-- 42_bus_ops.md R97, 10_state.md R24: RD_RESULT, in every state: the unused offsets 0x00, a draw while BUSY, else the
register, zero-extended. -/
def Obligations.ReadResultReturnsRegisterOrDraw : Prop :=
  ∀ (s : State) (off : BitVec 4) (d : Byte), ∃ t, exec (.rdResult off d) s = .next t ∧ SameBlock s t ∧
    (12 ≤ off.toNat → Returned s t 0x00) ∧ (off.toNat < 12 → s.phase = .busy → ReturnedDraw s t) ∧
    (s.phase = .idle → ∀ v,
      ([if s.results.fin then 1 else 0, if s.results.rsv1 then 1 else 0, if s.results.rsv2 then 1 else 0,
        if s.results.rsv3 then 1 else 0, s.results.opcode.setWidth 8, if s.results.mask then 1 else 0,
        s.results.payloadLen.setWidth 8, s.results.frameLen, s.results.key0, s.results.key1, s.results.key2,
        s.results.key3] : List Byte)[off.toNat]? = some v → Returned s t v)

/-- 20_memory.md R39: two reads of one address with nothing between return the same value, unless the read returns a
draw. That a draw shows in the counter `draws` is the model's form (log 3). -/
def Obligations.ReadsAreIdempotent : Prop :=
  ∀ (w : BusWord) (s t u : State), w.getLsbD 17 = false → exec (decode w) s = .next t → t.draws = s.draws →
    exec (decode w) t = .next u → u.readData = t.readData ∧ u.draws = t.draws ∧ SameBlock t u

/-- 70_reset_and_hazards.md R126 ("independently per read"): two result-side reads while BUSY return draws of two
different numbers. The numbering of draws is the model's choice (log 3). -/
def Obligations.BusyResultReadsDrawAnew : Prop :=
  ∀ (s t u : State) (a b : Addr) (d e : Byte), s.phase = .busy →
    (0x100 ≤ a.toNat ∧ a.toNat < 0x180 ∨ 0x190 ≤ a.toNat ∧ a.toNat < 0x19C) →
    (0x100 ≤ b.toNat ∧ b.toNat < 0x180 ∨ 0x190 ≤ b.toNat ∧ b.toNat < 0x19C) →
    exec (decode (readWord a d)) s = .next t → exec (decode (readWord b e)) t = .next u →
    ∃ k m, k ≠ m ∧ t.readData = some (Config.draw8 k) ∧ u.readData = some (Config.draw8 m)

/-! ### Writes and commands (42_bus_ops.md R99 to R105, 40_decode.md R66) -/

/-- 42_bus_ops.md R99: WR_INBUF. While IDLE `IN_BUF[i]` is `d` and written, every other byte and register is as before,
and the same write again changes nothing; while BUSY nothing changes. -/
def Obligations.WriteInBufStoresWhileIdle : Prop :=
  ∀ (s : State) (i : BitVec 8) (d : Byte),
    (s.phase = .idle → ∃ t, exec (.wrInbuf i d) s = .next t ∧ t.inByte i.toNat = some d ∧ t.written i.toNat = true ∧
      (∀ a, a ≠ i.toNat → t.mem.read a = s.mem.read a) ∧ t.phase = s.phase ∧ t.frameLen = s.frameLen ∧ SameFlags s t ∧
      t.results = s.results ∧ SameHostSide s t ∧ exec (.wrInbuf i d) t = .next t) ∧
    (s.phase = .busy → exec (.wrInbuf i d) s = .next s)

/-- 42_bus_ops.md R100: WR_FRAMELEN. While IDLE FRAME_LEN is `d` and all else is as before; while BUSY nothing changes. -/
def Obligations.WriteFrameLenStoresWhileIdle : Prop :=
  ∀ (s : State) (d : Byte),
    (s.phase = .idle → ∃ t, exec (.wrFramelen d) s = .next t ∧ t.frameLen = d ∧ (∀ a, t.mem.read a = s.mem.read a) ∧
      t.phase = s.phase ∧ SameFlags s t ∧ t.results = s.results ∧ SameHostSide s t) ∧
    (s.phase = .busy → exec (.wrFramelen d) s = .next s)

/-- 42_bus_ops.md R102, R104, R105: NOP, the reserved commands and the ignored writes have no effect, in every state. -/
def Obligations.NopReservedAndIgnoredWritesDoNothing : Prop :=
  ∀ (s : State) (a : Addr) (d : Byte),
    exec .cmdNop s = .next s ∧ exec (.cmdRsvd d) s = .next s ∧ exec (.wrIgnored a d) s = .next s

/-- 40_decode.md R66: DECODE. While IDLE it is accepted whatever FRAME_LEN is: BUSY 1, DONE, VALID, ERR cleared, STATUS
reads 0x01, nothing else written; while BUSY it has no effect. -/
def Obligations.DecodeIsAcceptedWhileIdle : Prop :=
  ∀ s : State,
    (s.phase = .idle → ∃ t, exec .cmdDecode s = .next t ∧ t.phase = .busy ∧ t.done = false ∧ t.valid = false ∧
      t.err = 0b00 ∧ t.status = 0x01 ∧ t.frameLen = s.frameLen ∧ t.results = s.results ∧
      (∀ a, t.mem.read a = s.mem.read a) ∧ SameHostSide s t) ∧
    (s.phase = .busy → exec .cmdDecode s = .next s)

/-- 42_bus_ops.md R103: CLEAR while IDLE. The flags, the result registers and OUT_BUF are zero; IN_BUF, WRITTEN and
FRAME_LEN are kept. -/
def Obligations.ClearBlanksTheResultSide : Prop :=
  ∀ s : State, s.phase = .idle → ∃ t, exec .cmdClear s = .next t ∧ t.phase = .idle ∧ t.done = false ∧ t.valid = false ∧
    t.err = 0b00 ∧ t.status = 0x00 ∧ ResultsBlank t ∧ SameInput s t ∧ SameHostSide s t

/-- 42_bus_ops.md R101: a write to CMD, by phase and code. -/
def Obligations.CommandWriteDispatches : Prop :=
  ∀ (s : State) (d : Byte),
    (s.phase = .busy → exec (decode (writeWord 0x180 d)) s = .next s) ∧
    (s.phase = .idle → exec (decode (writeWord 0x180 d)) s =
      if d = 0x00 then exec .cmdNop s else if d = 0x01 then exec .cmdDecode s
      else if d = 0x02 then exec .cmdClear s else exec (.cmdRsvd d) s)

/-- 70_reset_and_hazards.md R127, R128: while BUSY a write to IN_BUF, FRAME_LEN or CMD changes nothing, WRITTEN included. -/
def Obligations.WritesWhileBusyAreDropped : Prop :=
  ∀ (s : State) (a : Addr) (d : Byte), s.phase = .busy → a.toNat < 0x100 ∨ a.toNat = 0x181 ∨ a.toNat = 0x180 →
    exec (decode (writeWord a d)) s = .next s

/-- 10_state.md R29, 20_memory.md R44: no transaction changes any WSFP state while BUSY, so a completion reads what the
accept saw. -/
def Obligations.TransactionsWhileBusyKeepTheBlock : Prop :=
  ∀ (s : State) (w : BusWord), s.phase = .busy →
    ∃ t, exec (decode w) s = .next t ∧ SameBlock s t ∧ t.schedule = s.schedule

/-- 70_reset_and_hazards.md R125: two input writes to different locations may be exchanged. -/
def Obligations.InputWritesCommute : Prop :=
  ∀ (s : State) (i j : BitVec 8) (d e : Byte) (t t' u u' v v' : State), s.mem.Wf → i ≠ j →
    exec (.wrInbuf i d) s = .next t → exec (.wrInbuf j e) t = .next u →
    exec (.wrInbuf j e) s = .next t' → exec (.wrInbuf i d) t' = .next u' →
    exec (.wrFramelen e) t = .next v → exec (.wrFramelen e) s = .next v' →
    u = u' ∧ exec (.wrInbuf i d) v' = .next v

/-! ### Reset (70_reset_and_hazards.md R122, 10_state.md R30) -/

/-- 70_reset_and_hazards.md R122: the reset event, in IDLE and in BUSY, gives every piece of state its reset value. That
the model's own fields `readData` and `draws` stay is the model's choice (logs 3, 5). -/
def Obligations.ResetEventGivesResetValues : Prop :=
  ∀ (s : State) (rest : List Move), s.schedule = .reset :: rest →
    ∃ t, step s = .next t ∧ t.phase = .idle ∧ (∀ i < 256, t.written i = false) ∧ t.frameLen = 0x00 ∧ t.done = false ∧
      t.valid = false ∧ t.err = 0b00 ∧ (∀ off, t.results.read off = 0x00) ∧ (∀ i < 128, t.outByte i = 0x00) ∧
      t.schedule = rest ∧ t.readData = s.readData ∧ t.draws = s.draws

/-- 10_state.md R30: the reset values of every piece of state. -/
def Obligations.MachineStartsAtResetValues : Prop :=
  State.reset.phase = .idle ∧ (∀ i < 256, State.reset.written i = false) ∧ State.reset.frameLen = 0x00 ∧
  State.reset.status = 0x00 ∧ (∀ off, State.reset.results.read off = 0x00) ∧ ∀ i < 128, State.reset.outByte i = 0x00

/-- 70_reset_and_hazards.md R122 ("A decode in progress at reset never completes, and no result of it is visible"): after
a reset event the machine is IDLE with STATUS 0x00 and a blank result side after any number of steps, engine turns
included, if the host writes no DECODE. -/
def Obligations.NoDecodeSurvivesReset : Prop :=
  ∀ (s t : State) (rest : List Move) (k : Nat), s.schedule = .reset :: rest → .host 0x38001 ∉ rest →
    runSteps (k + 1) s = .next t → t.phase = .idle ∧ t.status = 0x00 ∧ ResultsBlank t

/-! ### The decode function (40_decode.md, 41_unmask.md) -/

/-- 00_scope.md R9: `BIT(b, p)` is `(b & (0x80 >> p)) != 0`, which is bit `7 - p`. -/
def Obligations.FramePositionsCountFromTheTop : Prop :=
  ∀ (b : Byte) (p : Nat), p ≤ 7 → (bitAt b p = true ↔ b &&& (0x80 >>> p) ≠ 0) ∧ bitAt b p = b.getLsbD (7 - p)

/-- 40_decode.md R77, R70, 90_conflicts.md C1: the masks 0x0F and 0x7F and the positions 4-7 and 1-7 give the same
values. -/
def Obligations.MasksAgreeWithPositions : Prop :=
  ∀ b : Byte,
    (opcodeField b).toNat = 8 * (bitAt b 4).toNat + 4 * (bitAt b 5).toNat + 2 * (bitAt b 6).toNat + (bitAt b 7).toNat ∧
    (payloadLenField b).toNat = 64 * (bitAt b 1).toNat + 32 * (bitAt b 2).toNat + 16 * (bitAt b 3).toNat +
      (opcodeField b).toNat

/-- 40_decode.md R72, R82: a decoded frame's lengths. -/
def Obligations.DecodedFramesHaveTheirLengths : Prop :=
  ∀ (bytes : Nat → Byte) (n : Byte) (f : Frame), decodeFrame bytes n = .ok f →
    6 ≤ n.toNat ∧ n.toNat ≤ 131 ∧ f.fields.frameLen = n ∧ f.fields.payloadLen.toNat + 6 = n.toNat ∧
    f.masked.length = n.toNat - 6 ∧ f.unmasked.length = n.toNat - 6 ∧ f.chars.length = n.toNat - 6

/-- 41_unmask.md R87: the characters are the unmasked bytes' values, none replaced. -/
def Obligations.PayloadCharactersAreByteValues : Prop :=
  ∀ (bytes : Nat → Byte) (n : Byte) (f : Frame) (i : Nat) (u : Byte), decodeFrame bytes n = .ok f →
    f.unmasked[i]? = some u → f.chars[i]? = some u.toNat

/-- 40_decode.md R80: byte 0 and the MASK bit decide no outcome: with the other bits the same, the error is the same, and
a frame has the same payload, key and payload length. -/
def Obligations.HeaderFlagsDecideNothing : Prop :=
  ∀ (bytes bytes' : Nat → Byte) (n : Byte), (∀ j, 2 ≤ j → bytes' j = bytes j) →
    (bytes' 1 &&& 0x7F) = (bytes 1 &&& 0x7F) →
    (∀ e, decodeFrame bytes n = .err e ↔ decodeFrame bytes' n = .err e) ∧
    ∀ f f', decodeFrame bytes n = .ok f → decodeFrame bytes' n = .ok f' →
      f'.masked = f.masked ∧ f'.unmasked = f.unmasked ∧ f'.chars = f.chars ∧
      f'.fields.payloadLen = f.fields.payloadLen ∧ ∀ k, f'.fields.keyAt k = f.fields.keyAt k

/-- 41_unmask.md R84, R88: unmasking again with the key gives the masked payload, which is the frame's bytes from 6. -/
def Obligations.UnmaskRoundTrip : Prop :=
  ∀ (bytes : Nat → Byte) (n : Byte) (f : Frame) (i : Nat) (u : Byte), decodeFrame bytes n = .ok f →
    f.unmasked[i]? = some u →
    f.masked[i]? = some (u ^^^ f.fields.keyAt i) ∧ u ^^^ f.fields.keyAt i = bytes (6 + i)

/-- 41_unmask.md R89 (a) to (e): zero key, byte equal to its key byte, zero payload, distance 4, bit by bit. -/
def Obligations.UnmaskCornerLaws : Prop :=
  ∀ (bytes : Nat → Byte) (n : Byte) (f : Frame) (i : Nat) (u m : Byte), decodeFrame bytes n = .ok f →
    f.unmasked[i]? = some u → f.masked[i]? = some m →
    (f.fields.keyAt i = 0x00 → u = m) ∧ (m = f.fields.keyAt i → u = 0x00) ∧ (m = 0x00 → u = f.fields.keyAt i) ∧
    (∀ u' m', f.unmasked[i + 4]? = some u' → f.masked[i + 4]? = some m' → u' ^^^ u = m' ^^^ m) ∧
    ∀ j, u.getLsbD j = (m.getLsbD j != (f.fields.keyAt (i % 4)).getLsbD j)

/-! ### The completion (40_decode.md R67, R81; 60_exceptions.md R106 to R111) -/

/-- 40_decode.md R73 to R76, R78, R79, R81, 41_unmask.md R85, R86: the Ok completion. With `b j` the byte the engine reads
at `j`, every result register, OUT_BUF and STATUS, and what is kept. A byte not written since reset is a free value
(log 3), and that `b j` is one value for every use of byte `j` in the decode, so that OUT_BUF agrees with the key registers
on a draw too, is the model's inference (log 12). -/
def Obligations.CompletionPublishesTheFrame : Prop :=
  ∀ (s : State) (rest : List Move) (b : Nat → Byte), s.phase = .busy → EngineTurn s rest → s.engineByte = b →
    6 ≤ s.frameLen.toNat → (b 1 &&& 0x7F).toNat ≤ 125 → (b 1 &&& 0x7F).toNat = s.frameLen.toNat - 6 →
    ∃ t, step s = .next t ∧ t.phase = .idle ∧ t.status = 0x06 ∧
      t.results.read 0x0 = (b 0 >>> 7) &&& 1 ∧ t.results.read 0x1 = (b 0 >>> 6) &&& 1 ∧
      t.results.read 0x2 = (b 0 >>> 5) &&& 1 ∧ t.results.read 0x3 = (b 0 >>> 4) &&& 1 ∧
      t.results.read 0x4 = b 0 &&& 0x0F ∧ t.results.read 0x5 = (b 1 >>> 7) &&& 1 ∧
      t.results.read 0x6 = b 1 &&& 0x7F ∧ t.results.read 0x7 = s.frameLen ∧
      t.results.read 0x8 = b 2 ∧ t.results.read 0x9 = b 3 ∧ t.results.read 0xA = b 4 ∧ t.results.read 0xB = b 5 ∧
      (∀ i < 128, t.outByte i = if i < s.frameLen.toNat - 6 then b (6 + i) ^^^ b (2 + i % 4) else 0x00) ∧
      SameInput s t ∧ t.schedule = rest ∧ t.readData = s.readData

/-- 40_decode.md R69, R71, R72, 60_exceptions.md R106 to R111: the three errors, each with its cause, in their priority,
and the error entry. -/
def Obligations.CompletionReportsTheFirstError : Prop :=
  ∀ (s : State) (rest : List Move), s.phase = .busy → EngineTurn s rest →
    ∃ t, step s = .next t ∧ t.phase = .idle ∧ t.done = true ∧ t.schedule = rest ∧ t.readData = s.readData ∧
      (s.frameLen.toNat < 6 → ReportedError s t 0x0A) ∧
      (6 ≤ s.frameLen.toNat → (s.engineByte 1 &&& 0x7F).toNat = 126 ∨ (s.engineByte 1 &&& 0x7F).toNat = 127 →
        ReportedError s t 0x12) ∧
      (6 ≤ s.frameLen.toNat → (s.engineByte 1 &&& 0x7F).toNat ≤ 125 →
        (s.engineByte 1 &&& 0x7F).toNat ≠ s.frameLen.toNat - 6 → ReportedError s t 0x1A)

/-- 20_memory.md R40: the completion's outcome depends on no byte outside its footprint: none if FRAME_LEN < 6, bytes 0
and 1 if a length check fails, bytes 0 to FRAME_LEN - 1 else. -/
def Obligations.CompletionReadsOnlyItsFootprint : Prop :=
  ∀ (s s' t t' : State) (rest rest' : List Move), s.phase = .busy → s'.phase = .busy → EngineTurn s rest →
    EngineTurn s' rest' → s'.frameLen = s.frameLen →
    (∀ j < (if s.frameLen.toNat < 6 then 0
        else if (s.engineByte 1 &&& 0x7F).toNat = s.frameLen.toNat - 6 ∧ (s.engineByte 1 &&& 0x7F).toNat ≤ 125
        then s.frameLen.toNat else 2), s'.engineByte j = s.engineByte j) →
    step s = .next t → step s' = .next t' →
    t'.status = t.status ∧ SameResults t t'

/-- 40_decode.md R67 ("Enabled: exactly when PHASE == BUSY"): the engine's turn while IDLE changes nothing. That such a
turn may stand in the schedule is the model's choice (log 2). -/
def Obligations.EngineDoesNothingWhileIdle : Prop :=
  ∀ (s : State) (rest : List Move), s.phase = .idle → EngineTurn s rest → step s = .next { s with schedule := rest }

/-! ### The whole machine -/

/-- 10_state.md R15: PHASE is IDLE at reset, goes to BUSY only by an accepted DECODE, and to IDLE only by the completion or
by reset. -/
def Obligations.PhaseChangesOnlyByAcceptCompletionReset : Prop :=
  State.reset.phase = .idle ∧ ∀ s t : State, step s = .next t →
    (s.phase = .idle → t.phase = .busy → ∃ rest, s.schedule = .host 0x38001 :: rest) ∧
    (s.phase = .busy → t.phase = .idle → ∃ rest, EngineTurn s rest ∨ s.schedule = .reset :: rest) ∧
    (∀ rest, s.schedule = .host 0x38001 :: rest → t.phase = .busy) ∧
    (∀ rest, EngineTurn s rest ∨ s.schedule = .reset :: rest → t.phase = .idle)

/-- 10_state.md R21: DONE is set by the completion and by nothing else, and cleared by an accepted DECODE, an accepted
CLEAR and reset and by nothing else. -/
def Obligations.DoneIsWrittenOnlyByItsWriters : Prop :=
  ∀ s t : State, step s = .next t →
    (s.done = false → t.done = true → s.phase = .busy ∧ ∃ rest, EngineTurn s rest) ∧
    (s.done = true → t.done = false → ∃ rest,
      (s.phase = .idle ∧ (s.schedule = .host 0x38001 :: rest ∨ s.schedule = .host 0x38002 :: rest)) ∨
        s.schedule = .reset :: rest) ∧
    (∀ rest, s.phase = .busy → EngineTurn s rest → t.done = true) ∧
    ∀ rest, (s.phase = .idle ∧ (s.schedule = .host 0x38001 :: rest ∨ s.schedule = .host 0x38002 :: rest)) ∨
      s.schedule = .reset :: rest → t.done = false

/-- 10_state.md R22, R23: VALID and ERR are written only by the completion, an accepted DECODE, CLEAR and reset, and what
each writes: the outcome of `decode` at the completion, zeros else. -/
def Obligations.ValidAndErrAreWrittenOnlyByTheirWriters : Prop :=
  ∀ s t : State, step s = .next t →
    ((t.valid = s.valid ∧ t.err = s.err) ∨ (s.phase = .busy ∧ ∃ rest, EngineTurn s rest) ∨ ∃ rest,
      (s.phase = .idle ∧ (s.schedule = .host 0x38001 :: rest ∨ s.schedule = .host 0x38002 :: rest)) ∨
        s.schedule = .reset :: rest) ∧
    (∀ rest, s.phase = .busy → EngineTurn s rest →
      (∀ f, s.frameResult = .ok f → t.valid = true ∧ t.err = 0b00) ∧
      (s.frameResult = .err .malformedInput → t.valid = false ∧ t.err = 0b01) ∧
      (s.frameResult = .err .unsupportedLength → t.valid = false ∧ t.err = 0b10) ∧
      (s.frameResult = .err .inconsistentLength → t.valid = false ∧ t.err = 0b11)) ∧
    ∀ rest, (s.phase = .idle ∧ (s.schedule = .host 0x38001 :: rest ∨ s.schedule = .host 0x38002 :: rest)) ∨
      s.schedule = .reset :: rest → t.valid = false ∧ t.err = 0b00

/-- 10_state.md R25: the result registers and OUT_BUF change only at completion, at CLEAR and at reset. -/
def Obligations.ResultsChangeOnlyAtCompletionClearReset : Prop :=
  ∀ s t : State, step s = .next t →
    SameResults s t ∨ (s.phase = .busy ∧ ∃ rest, EngineTurn s rest) ∨
    (s.phase = .idle ∧ ∃ rest, s.schedule = .host 0x38002 :: rest) ∨ ∃ rest, s.schedule = .reset :: rest

/-- 10_state.md R16, R17, 40_decode.md R83: IN_BUF, WRITTEN and FRAME_LEN change only by a host write to them while IDLE
or by reset; the engine never writes them. -/
def Obligations.InputChangesOnlyByHostWriteOrReset : Prop :=
  ∀ s t : State, step s = .next t →
    SameInput s t ∨ (∃ rest, s.schedule = .reset :: rest) ∨
    (s.phase = .idle ∧ ∃ a d rest, s.schedule = .host (writeWord a d) :: rest ∧ (a.toNat < 0x100 ∨ a.toNat = 0x181))

/-- Every step keeps the invariant: canonical memory, STATUS one of its six values (10_state.md R19), VALID 1 only with
DONE 1 and ERR 0b00 (R22), and a result side that is blank or a frame's (R25, 40_decode.md R82, 41_unmask.md R86). The canonical form of memory is the
model's choice (log 4). -/
def Obligations.EveryStepKeepsTheInvariant : Prop :=
  ∀ s t : State, Inv s → step s = .next t → Inv t

/-- The invariant holds right after reset. -/
def Obligations.ResetMeetsTheInvariant : Prop := Inv State.reset

/-- From every state that meets the invariant, under every schedule, a run of any length goes on and keeps it. -/
def Obligations.InvariantStatesRunSafely : Prop := ∀ s : State, Inv s → SafeRun s

/-- 10_state.md R19: "The reachable values of STATUS are exactly 0x00, 0x01, 0x06, 0x0A, 0x12 and 0x1A",
a sentence the spec marks as derived. That reaching means by a schedule is the model's choice (log 2). -/
def Obligations.ReachableStatusValuesAreExactlySix : Prop :=
  ∀ v : Byte, (∃ s, Reachable s ∧ s.status = v) ↔
    v = 0x00 ∨ v = 0x01 ∨ v = 0x06 ∨ v = 0x0A ∨ v = 0x12 ∨ v = 0x1A

/-- 70_reset_and_hazards.md R131: a DECODE in progress is over after finitely many steps, whatever is pending. The bound
by the number of pending moves is the model's (log 2). -/
def Obligations.DecodeInProgressEnds : Prop :=
  ∀ s : State, s.phase = .busy →
    ∃ k t, k ≤ s.schedule.length + 1 ∧ runSteps k s = .next t ∧ t.phase = .idle

/-- 70_reset_and_hazards.md R132, 20_memory.md R44: whatever transactions the host performs in the BUSY window, a decode
ends with STATUS, the result registers and OUT_BUF the function of the input at the accept, and the input as it stood.
Every byte of the frame is written, so no draw is read. That the engine's turn stands in the schedule is the model's form
(log 2). -/
def Obligations.DecodeEndsAsFunctionOfAcceptedInput : Prop :=
  ∀ (s : State) (window : List BusWord) (rest : List Move), s.phase = .idle →
    s.schedule = .host 0x38001 :: (window.map .host ++ .engine :: rest) →
    (∀ j < s.frameLen.toNat, s.written j = true) →
    ∃ t, runSteps (window.length + 2) s = .next t ∧ t.phase = .idle ∧ t.schedule = rest ∧ SameInput s t ∧
      Shows t (decodeFrame (fun j => (s.inByte j).getD 0x00) s.frameLen)

/-- 00_scope.md R11, 70_reset_and_hazards.md R124: a host that loads any frame of at most 255 bytes while IDLE, writes its
length and DECODE, and waits for the engine, finds the pure `decode` of that byte list. That the words and the engine's turn
stand in the schedule is the model's form (logs 1, 2). -/
def Obligations.LoadedFrameIsDecoded : Prop :=
  ∀ (s : State) (bs : List Byte) (rest : List Move), s.phase = .idle → bs.length ≤ 255 →
    s.schedule = (List.range bs.length).map (fun i => .host (writeWord (BitVec.ofNat 9 i) (bs.getD i 0x00))) ++
      .host (writeWord 0x181 (BitVec.ofNat 8 bs.length)) :: .host 0x38001 :: .engine :: rest →
    ∃ t, runSteps (bs.length + 3) s = .next t ∧ t.phase = .idle ∧ t.schedule = rest ∧ Shows t (decodeList bs)

/-- 30_encoding.md R62, 42_bus_ops.md R90: labels and branches are the host's alone: the block is as before. -/
def Obligations.HostBranchesNeverTouchTheBlock : Prop :=
  ∀ (r r' : HostRun) (x : HostLine), r.program[r.line]? = some x → (∀ a v, x ≠ .rd a v) → (∀ a d, x ≠ .wr a d) →
    r.turn .host = some r' → r'.block = r.block ∧ r'.vars = r.vars ∧ r'.program = r.program
end

