-- ==== Sys2Proof/Laws/Decode.lean ====
section
/-! SUPPORT. Transaction words: a word is its upper ten bits and its DATA, and the row tests of 30_encoding.md R58 but
those of the three commands look at the upper ten bits only. -/

namespace Sys2Proof

theorem append_eq_append_iff {n m : Nat} {a c : BitVec n} {b d : BitVec m} : a ++ b = c ++ d ↔ a = c ∧ b = d := by
  refine ⟨fun h => ⟨?_, ?_⟩, fun ⟨h, h'⟩ => by rw [h, h']⟩
  · rw [← BitVec.extractLsb'_append_eq_left (a := a) (b := b), h, BitVec.extractLsb'_append_eq_left]
  · rw [← BitVec.extractLsb'_append_eq_right (a := a) (b := b), h, BitVec.extractLsb'_append_eq_right]

/-- A word is its upper ten bits followed by its DATA. -/
theorem word_split (w : BusWord) : ∃ (x : BitVec 10) (d : Byte), w = x ++ d :=
  ⟨w.extractLsb' 8 10, w.extractLsb' 0 8, (BitVec.extractLsb'_append_extractLsb' (w := 10) (len := 8) (x := w)).symm⟩

@[simp] theorem wordData_append (x : BitVec 10) (d : Byte) : wordData (x ++ d : BitVec (10 + 8)) = d :=
  BitVec.extractLsb'_append_eq_right

/-- ADDR is the low nine of the upper ten bits. -/
@[simp] theorem wordAddr_append (x : BitVec 10) (d : Byte) : wordAddr (x ++ d : BitVec (10 + 8)) = x.setWidth 9 := by
  refine BitVec.eq_of_getLsbD_eq fun i hi => ?_
  unfold wordAddr
  rw [BitVec.getLsbD_extractLsb', BitVec.getLsbD_append, BitVec.getLsbD_setWidth, if_neg (by omega)]
  simp

/-- A row test whose mask leaves DATA open looks at the upper ten bits only. -/
theorem hits_high (x m p : BitVec 10) (d : Byte) :
    hits (x ++ d : BitVec (10 + 8)) (m ++ 0#8 : BitVec (10 + 8)) (p ++ 0#8 : BitVec (10 + 8)) = ((x &&& m) == p) := by
  have e : (x ++ d : BitVec (10 + 8)) &&& (m ++ 0#8 : BitVec (10 + 8)) = ((x &&& m) ++ 0#8 : BitVec (10 + 8)) := by
    rw [BitVec.and_append, BitVec.and_zero]
  unfold hits
  rw [Bool.eq_iff_iff, beq_iff_eq, beq_iff_eq]
  exact ⟨fun h => (append_eq_append_iff.1 (e.symm.trans h)).1, fun h => e.trans (by rw [h])⟩

/-- A command's test looks at the whole word. -/
theorem hits_full (x p : BitVec 10) (d c : Byte) :
    hits (x ++ d : BitVec (10 + 8)) 0x3FFFF#18 (p ++ c : BitVec (10 + 8)) = (x == p && d == c) := by
  have all : (x ++ d : BitVec (10 + 8)) &&& 0x3FFFF#18 = x ++ d := BitVec.and_allOnes
  unfold hits
  rw [Bool.eq_iff_iff, Bool.and_eq_true, beq_iff_eq, beq_iff_eq, beq_iff_eq]
  exact ⟨fun h => append_eq_append_iff.1 (all.symm.trans h), fun h => all.trans (append_eq_append_iff.2 h)⟩

/-- The decoder on the upper ten bits and DATA. -/
theorem decode_append (x : BitVec 10) (d : Byte) :
    decode (x ++ d : BitVec (10 + 8)) =
      if (x &&& 0x300#10) = 0#10 then .rdInbuf (x.setWidth 8) d
      else if (x &&& 0x380#10) = 0x100#10 then .rdOutbuf (x.setWidth 7) d
      else if x = 0x180#10 then .rdCmd d
      else if x = 0x181#10 then .rdFramelen d
      else if x = 0x182#10 then .rdStatus d
      else if (x &&& 0x3F0#10) = 0x190#10 then .rdResult (x.setWidth 4) d
      else if (x &&& 0x200#10) = 0#10 then .rdRsvd (x.setWidth 9) d
      else if (x &&& 0x300#10) = 0x200#10 then .wrInbuf (x.setWidth 8) d
      else if x = 0x380#10 then
        if d = 0#8 then .cmdNop else if d = 1#8 then .cmdDecode else if d = 2#8 then .cmdClear else .cmdRsvd d
      else if x = 0x381#10 then .wrFramelen d
      else .wrIgnored (x.setWidth 9) d := by
  have high := fun m p => hits_high x m p d
  have full := fun p c => hits_full x p d c
  have hx : x &&& 1023#10 = x := BitVec.and_allOnes
  unfold decode
  rw [show hits (x ++ d : BitVec (10 + 8)) 0x30000 0x00000 = _ from high 0x300 0,
    show hits (x ++ d : BitVec (10 + 8)) 0x38000 0x10000 = _ from high 0x380 0x100,
    show hits (x ++ d : BitVec (10 + 8)) 0x3FF00 0x18000 = _ from high 0x3FF 0x180,
    show hits (x ++ d : BitVec (10 + 8)) 0x3FF00 0x18100 = _ from high 0x3FF 0x181,
    show hits (x ++ d : BitVec (10 + 8)) 0x3FF00 0x18200 = _ from high 0x3FF 0x182,
    show hits (x ++ d : BitVec (10 + 8)) 0x3F000 0x19000 = _ from high 0x3F0 0x190,
    show hits (x ++ d : BitVec (10 + 8)) 0x20000 0x00000 = _ from high 0x200 0,
    show hits (x ++ d : BitVec (10 + 8)) 0x30000 0x20000 = _ from high 0x300 0x200,
    show hits (x ++ d : BitVec (10 + 8)) 0x3FFFF 0x38000 = _ from full 0x380 0,
    show hits (x ++ d : BitVec (10 + 8)) 0x3FFFF 0x38001 = _ from full 0x380 1,
    show hits (x ++ d : BitVec (10 + 8)) 0x3FFFF 0x38002 = _ from full 0x380 2,
    show hits (x ++ d : BitVec (10 + 8)) 0x3FF00 0x38000 = _ from high 0x3FF 0x380,
    show hits (x ++ d : BitVec (10 + 8)) 0x3FF00 0x38100 = _ from high 0x3FF 0x381]
  simp only [wordAddr_append, wordData_append, beq_iff_eq, Bool.and_eq_true]
  have e : ∀ k : Nat, k ≤ 9 → (x.setWidth 9).setWidth k = x.setWidth k := fun k hk =>
    BitVec.setWidth_setWidth_of_le x hk
  rw [e 8 (by omega), e 7 (by omega), e 4 (by omega)]
  by_cases h : x = 896#10
  · simp [h]
  · simp [h, hx]

end Sys2Proof
end

