-- ==== Sys2Proof/Laws/Memory.lean ====
section
/-! SUPPORT. Memory: what a read returns after a write, and that every operation keeps the canonical form. -/

namespace Sys2Proof.Machine

namespace Memory

variable {m : Memory} {a b : Nat} {v w : Byte}

theorem unlisted_inBuf (h : a < 256) : unlisted a = none := by simp [unlisted]; omega

theorem unlisted_outBuf (h : 256 ≤ a) (h' : a < 384) : unlisted a = some 0x00 := by simp [unlisted]; omega

/-! ### Read after write -/

theorem read_put_same : (put m a v).read a = some v := by
  induction m with
  | nil => simp [put, read]
  | cons c m ih =>
    obtain ⟨k, x⟩ := c
    simp only [put]
    split
    · simp [read]
    · split
      · simp [read]
      · simp [read, *]

theorem read_put_other (h : b ≠ a) : (put m a v).read b = m.read b := by
  induction m with
  | nil => simp [put, read, h]
  | cons c m ih =>
    obtain ⟨k, x⟩ := c
    simp only [put]
    split
    · simp [read, h]
    · split
      · next e => subst e; simp [read, h]
      · simp [read, ih]

theorem read_erase_same : (erase m a).read a = unlisted a := by
  induction m with
  | nil => rfl
  | cons c m ih =>
    obtain ⟨k, x⟩ := c
    by_cases e : k = a
    · rw [erase, List.filter_cons_of_neg (by simpa using e)]
      exact ih
    · rw [erase, List.filter_cons_of_pos (by simpa using e), read, if_neg (Ne.symm e)]
      exact ih

theorem read_erase_other (h : b ≠ a) : (erase m a).read b = m.read b := by
  induction m with
  | nil => rfl
  | cons c m ih =>
    obtain ⟨k, x⟩ := c
    by_cases e : k = a
    · rw [erase, List.filter_cons_of_neg (by simpa using e), read, if_neg (e ▸ h)]
      exact ih
    · rw [erase, List.filter_cons_of_pos (by simpa using e), read, read]
      split
      · rfl
      · exact ih

/-- A read after a write to the same address gives the byte written. -/
@[simp] theorem read_write_same : (write m a v).read a = some v := by
  unfold write
  split
  · next h => rw [read_erase_same, h]
  · exact read_put_same

/-- A write leaves every other address alone. -/
theorem read_write_other (h : b ≠ a) : (write m a v).read b = m.read b := by
  unfold write
  split
  · exact read_erase_other h
  · exact read_put_other h

/-- What a read returns after a range of writes. -/
theorem read_writeRange (base : Nat) (f : Nat → Byte) (n : Nat) :
    (m.writeRange base f n).read a = if base ≤ a ∧ a < base + n then some (f (a - base)) else m.read a := by
  induction n with
  | zero => rw [if_neg (by omega)]; rfl
  | succ n ih =>
    simp only [writeRange]
    by_cases e : a = base + n
    · subst e; simp
    · rw [read_write_other e, ih]
      split <;> split <;> first | rfl | omega

/-! ### The canonical form -/

theorem wf_nil : Wf [] := ⟨List.Pairwise.nil, fun _ h => nomatch h⟩

theorem mem_put {c : Host.Cell} (h : c ∈ put m a v) : c = (a, v) ∨ c ∈ m := by
  induction m with
  | nil => simpa [put] using h
  | cons d m ih =>
    obtain ⟨k, x⟩ := d
    simp only [put] at h
    split at h
    · simpa using h
    · split at h
      · simp only [List.mem_cons] at h ⊢; tauto
      · simp only [List.mem_cons] at h ⊢
        rcases h with h | h
        · tauto
        · rcases ih h with h | h <;> tauto

theorem pairwise_put (h : m.Pairwise fun x y => x.1 < y.1) : (put m a v).Pairwise fun x y => x.1 < y.1 := by
  induction m with
  | nil => simp [put]
  | cons c m ih =>
    obtain ⟨k, x⟩ := c
    rw [List.pairwise_cons] at h
    simp only [put]
    split
    · next lt =>
      refine List.pairwise_cons.2 ⟨fun y hy => ?_, List.pairwise_cons.2 h⟩
      rcases List.mem_cons.1 hy with rfl | hy
      · exact lt
      · exact Nat.lt_trans lt (h.1 y hy)
    · split
      · next e => subst e; exact List.pairwise_cons.2 h
      · next hlt hne =>
        refine List.pairwise_cons.2 ⟨fun y hy => ?_, ih h.2⟩
        rcases mem_put hy with rfl | hy
        · show k < a; omega
        · exact h.1 y hy

/-- Every write to an address of the two buffers keeps the canonical form. -/
theorem wf_write (h : m.Wf) (ha : a < 384) : (write m a v).Wf := by
  unfold write
  split
  · exact ⟨h.1.filter _, fun c hc => h.2 c (List.mem_filter.1 hc).1⟩
  · next hv =>
    refine ⟨pairwise_put h.1, fun c hc => ?_⟩
    rcases mem_put hc with rfl | hc
    · exact ⟨by simpa using ha, hv⟩
    · exact h.2 c hc

theorem wf_writeRange (h : m.Wf) {base n : Nat} (f : Nat → Byte) (hn : base + n ≤ 384) :
    (m.writeRange base f n).Wf := by
  induction n with
  | zero => exact h
  | succ n ih => exact wf_write (ih (by omega)) (by omega)

/-- An address below every listed one reads as unlisted. -/
theorem read_below (h : ∀ c ∈ m, b < c.1) : m.read b = unlisted b := by
  induction m with
  | nil => rfl
  | cons c m ih =>
    obtain ⟨k, x⟩ := c
    have hk : b < k := h (k, x) (by simp)
    rw [read, if_neg (by omega)]
    exact ih fun c hc => h c (by simp [hc])

theorem wf_tail {c : Host.Cell} (h : Wf (c :: m)) : Wf m :=
  ⟨(List.pairwise_cons.1 h.1).2, fun d hd => h.2 d (by simp [hd])⟩

theorem read_head (k : Nat) (x : Byte) : read ((k, x) :: m) k = some x := by simp [read]

/-- The head of a canonical memory is listed where another one's is. -/
theorem head_not_below {m' : Memory} {k k' : Nat} {x x' : Byte} (h : Wf ((k, x) :: m)) (h' : Wf ((k', x') :: m'))
    (e : ∀ a, read ((k, x) :: m) a = read ((k', x') :: m') a) : k' ≤ k := by
  by_contra lt
  have above : ∀ c ∈ (k', x') :: m', k < c.1 := fun c hc => by
    rcases List.mem_cons.1 hc with rfl | hc
    · show k < k'; omega
    · have := (List.pairwise_cons.1 h'.1).1 c hc; simp only at this; omega
  have := e k
  rw [read_below above, read_head] at this
  exact (h.2 (k, x) (by simp)).2 this.symm

/-- Canonical memories that read the same are the same list. -/
theorem eq_of_read_eq {m' : Memory} (h : m.Wf) (h' : m'.Wf) (e : ∀ a, m.read a = m'.read a) : m = m' := by
  induction m generalizing m' with
  | nil =>
    cases m' with
    | nil => rfl
    | cons c m' =>
      have := e c.1
      rw [read_head] at this
      exact absurd this (h'.2 c (by simp)).2
  | cons c m ih =>
    obtain ⟨k, x⟩ := c
    cases m' with
    | nil =>
      have := e k
      rw [read_head] at this
      exact absurd this.symm (h.2 (k, x) (by simp)).2
    | cons c' m' =>
      obtain ⟨k', x'⟩ := c'
      obtain rfl : k = k' := Nat.le_antisymm (head_not_below h' h fun a => (e a).symm) (head_not_below h h' e)
      obtain rfl : x = x' := by simpa [read_head] using e k
      congr 1
      refine ih (wf_tail h) (wf_tail h') fun a => ?_
      by_cases ea : a = k
      · subst ea
        rw [read_below (List.pairwise_cons.1 h.1).1, read_below (List.pairwise_cons.1 h'.1).1]
      · simpa [read, ea] using e a

end Memory

end Sys2Proof.Machine
end

