-- ==== Sys2Proof/Laws/State.lean ====
section
/-! SUPPORT. One lemma per field per update of State, each true by rfl: no later proof unfolds a record update. -/

namespace Sys2Proof.Machine

variable (s : State)

/-! ### respond -/

@[simp] theorem State.respond_phase (v : Byte) : (s.respond v).phase = s.phase := rfl
@[simp] theorem State.respond_frameLen (v : Byte) : (s.respond v).frameLen = s.frameLen := rfl
@[simp] theorem State.respond_done (v : Byte) : (s.respond v).done = s.done := rfl
@[simp] theorem State.respond_valid (v : Byte) : (s.respond v).valid = s.valid := rfl
@[simp] theorem State.respond_err (v : Byte) : (s.respond v).err = s.err := rfl
@[simp] theorem State.respond_results (v : Byte) : (s.respond v).results = s.results := rfl
@[simp] theorem State.respond_mem (v : Byte) : (s.respond v).mem = s.mem := rfl
@[simp] theorem State.respond_readData (v : Byte) : (s.respond v).readData = some v := rfl
@[simp] theorem State.respond_draws (v : Byte) : (s.respond v).draws = s.draws := rfl
@[simp] theorem State.respond_schedule (v : Byte) : (s.respond v).schedule = s.schedule := rfl

/-! ### respondDraw -/

@[simp] theorem State.respondDraw_phase : (s.respondDraw).phase = s.phase := rfl
@[simp] theorem State.respondDraw_frameLen : (s.respondDraw).frameLen = s.frameLen := rfl
@[simp] theorem State.respondDraw_done : (s.respondDraw).done = s.done := rfl
@[simp] theorem State.respondDraw_valid : (s.respondDraw).valid = s.valid := rfl
@[simp] theorem State.respondDraw_err : (s.respondDraw).err = s.err := rfl
@[simp] theorem State.respondDraw_results : (s.respondDraw).results = s.results := rfl
@[simp] theorem State.respondDraw_mem : (s.respondDraw).mem = s.mem := rfl
@[simp] theorem State.respondDraw_readData : (s.respondDraw).readData = some (Config.draw8 s.draws) := rfl
@[simp] theorem State.respondDraw_draws : (s.respondDraw).draws = s.draws + 1 := rfl
@[simp] theorem State.respondDraw_schedule : (s.respondDraw).schedule = s.schedule := rfl

/-! ### setFrameLen -/

@[simp] theorem State.setFrameLen_phase (d : Byte) : (s.setFrameLen d).phase = s.phase := rfl
@[simp] theorem State.setFrameLen_frameLen (d : Byte) : (s.setFrameLen d).frameLen = d := rfl
@[simp] theorem State.setFrameLen_done (d : Byte) : (s.setFrameLen d).done = s.done := rfl
@[simp] theorem State.setFrameLen_valid (d : Byte) : (s.setFrameLen d).valid = s.valid := rfl
@[simp] theorem State.setFrameLen_err (d : Byte) : (s.setFrameLen d).err = s.err := rfl
@[simp] theorem State.setFrameLen_results (d : Byte) : (s.setFrameLen d).results = s.results := rfl
@[simp] theorem State.setFrameLen_mem (d : Byte) : (s.setFrameLen d).mem = s.mem := rfl
@[simp] theorem State.setFrameLen_readData (d : Byte) : (s.setFrameLen d).readData = s.readData := rfl
@[simp] theorem State.setFrameLen_draws (d : Byte) : (s.setFrameLen d).draws = s.draws := rfl
@[simp] theorem State.setFrameLen_schedule (d : Byte) : (s.setFrameLen d).schedule = s.schedule := rfl

/-! ### setResults -/

@[simp] theorem State.setResults_phase (r : Results) : (s.setResults r).phase = s.phase := rfl
@[simp] theorem State.setResults_frameLen (r : Results) : (s.setResults r).frameLen = s.frameLen := rfl
@[simp] theorem State.setResults_done (r : Results) : (s.setResults r).done = s.done := rfl
@[simp] theorem State.setResults_valid (r : Results) : (s.setResults r).valid = s.valid := rfl
@[simp] theorem State.setResults_err (r : Results) : (s.setResults r).err = s.err := rfl
@[simp] theorem State.setResults_results (r : Results) : (s.setResults r).results = r := rfl
@[simp] theorem State.setResults_mem (r : Results) : (s.setResults r).mem = s.mem := rfl
@[simp] theorem State.setResults_readData (r : Results) : (s.setResults r).readData = s.readData := rfl
@[simp] theorem State.setResults_draws (r : Results) : (s.setResults r).draws = s.draws := rfl
@[simp] theorem State.setResults_schedule (r : Results) : (s.setResults r).schedule = s.schedule := rfl

/-! ### setPhase -/

@[simp] theorem State.setPhase_phase (p : Phase) : (s.setPhase p).phase = p := rfl
@[simp] theorem State.setPhase_frameLen (p : Phase) : (s.setPhase p).frameLen = s.frameLen := rfl
@[simp] theorem State.setPhase_done (p : Phase) : (s.setPhase p).done = s.done := rfl
@[simp] theorem State.setPhase_valid (p : Phase) : (s.setPhase p).valid = s.valid := rfl
@[simp] theorem State.setPhase_err (p : Phase) : (s.setPhase p).err = s.err := rfl
@[simp] theorem State.setPhase_results (p : Phase) : (s.setPhase p).results = s.results := rfl
@[simp] theorem State.setPhase_mem (p : Phase) : (s.setPhase p).mem = s.mem := rfl
@[simp] theorem State.setPhase_readData (p : Phase) : (s.setPhase p).readData = s.readData := rfl
@[simp] theorem State.setPhase_draws (p : Phase) : (s.setPhase p).draws = s.draws := rfl
@[simp] theorem State.setPhase_schedule (p : Phase) : (s.setPhase p).schedule = s.schedule := rfl

/-! ### clearFlags -/

@[simp] theorem State.clearFlags_phase : (s.clearFlags).phase = s.phase := rfl
@[simp] theorem State.clearFlags_frameLen : (s.clearFlags).frameLen = s.frameLen := rfl
@[simp] theorem State.clearFlags_done : (s.clearFlags).done = false := rfl
@[simp] theorem State.clearFlags_valid : (s.clearFlags).valid = false := rfl
@[simp] theorem State.clearFlags_err : (s.clearFlags).err = 0b00 := rfl
@[simp] theorem State.clearFlags_results : (s.clearFlags).results = s.results := rfl
@[simp] theorem State.clearFlags_mem : (s.clearFlags).mem = s.mem := rfl
@[simp] theorem State.clearFlags_readData : (s.clearFlags).readData = s.readData := rfl
@[simp] theorem State.clearFlags_draws : (s.clearFlags).draws = s.draws := rfl
@[simp] theorem State.clearFlags_schedule : (s.clearFlags).schedule = s.schedule := rfl

/-! ### setOutcome -/

@[simp] theorem State.setOutcome_phase (v : Bool) (e : BitVec 2) : (s.setOutcome v e).phase = s.phase := rfl
@[simp] theorem State.setOutcome_frameLen (v : Bool) (e : BitVec 2) : (s.setOutcome v e).frameLen = s.frameLen := rfl
@[simp] theorem State.setOutcome_done (v : Bool) (e : BitVec 2) : (s.setOutcome v e).done = s.done := rfl
@[simp] theorem State.setOutcome_valid (v : Bool) (e : BitVec 2) : (s.setOutcome v e).valid = v := rfl
@[simp] theorem State.setOutcome_err (v : Bool) (e : BitVec 2) : (s.setOutcome v e).err = e := rfl
@[simp] theorem State.setOutcome_results (v : Bool) (e : BitVec 2) : (s.setOutcome v e).results = s.results := rfl
@[simp] theorem State.setOutcome_mem (v : Bool) (e : BitVec 2) : (s.setOutcome v e).mem = s.mem := rfl
@[simp] theorem State.setOutcome_readData (v : Bool) (e : BitVec 2) : (s.setOutcome v e).readData = s.readData := rfl
@[simp] theorem State.setOutcome_draws (v : Bool) (e : BitVec 2) : (s.setOutcome v e).draws = s.draws := rfl
@[simp] theorem State.setOutcome_schedule (v : Bool) (e : BitVec 2) : (s.setOutcome v e).schedule = s.schedule := rfl

/-! ### storeIn -/

@[simp] theorem State.storeIn_phase (i : Nat) (d : Byte) : (s.storeIn i d).phase = s.phase := rfl
@[simp] theorem State.storeIn_frameLen (i : Nat) (d : Byte) : (s.storeIn i d).frameLen = s.frameLen := rfl
@[simp] theorem State.storeIn_done (i : Nat) (d : Byte) : (s.storeIn i d).done = s.done := rfl
@[simp] theorem State.storeIn_valid (i : Nat) (d : Byte) : (s.storeIn i d).valid = s.valid := rfl
@[simp] theorem State.storeIn_err (i : Nat) (d : Byte) : (s.storeIn i d).err = s.err := rfl
@[simp] theorem State.storeIn_results (i : Nat) (d : Byte) : (s.storeIn i d).results = s.results := rfl
@[simp] theorem State.storeIn_mem (i : Nat) (d : Byte) : (s.storeIn i d).mem = s.mem.write i d := rfl
@[simp] theorem State.storeIn_readData (i : Nat) (d : Byte) : (s.storeIn i d).readData = s.readData := rfl
@[simp] theorem State.storeIn_draws (i : Nat) (d : Byte) : (s.storeIn i d).draws = s.draws := rfl
@[simp] theorem State.storeIn_schedule (i : Nat) (d : Byte) : (s.storeIn i d).schedule = s.schedule := rfl

/-! ### storeOut -/

@[simp] theorem State.storeOut_phase (f : Nat → Byte) : (s.storeOut f).phase = s.phase := rfl
@[simp] theorem State.storeOut_frameLen (f : Nat → Byte) : (s.storeOut f).frameLen = s.frameLen := rfl
@[simp] theorem State.storeOut_done (f : Nat → Byte) : (s.storeOut f).done = s.done := rfl
@[simp] theorem State.storeOut_valid (f : Nat → Byte) : (s.storeOut f).valid = s.valid := rfl
@[simp] theorem State.storeOut_err (f : Nat → Byte) : (s.storeOut f).err = s.err := rfl
@[simp] theorem State.storeOut_results (f : Nat → Byte) : (s.storeOut f).results = s.results := rfl
@[simp] theorem State.storeOut_mem (f : Nat → Byte) : (s.storeOut f).mem = s.mem.writeRange Config.outBufBase f Config.outBufBytes := rfl
@[simp] theorem State.storeOut_readData (f : Nat → Byte) : (s.storeOut f).readData = s.readData := rfl
@[simp] theorem State.storeOut_draws (f : Nat → Byte) : (s.storeOut f).draws = s.draws := rfl
@[simp] theorem State.storeOut_schedule (f : Nat → Byte) : (s.storeOut f).schedule = s.schedule := rfl

/-! ### finish -/

@[simp] theorem State.finish_phase : (s.finish).phase = .idle := rfl
@[simp] theorem State.finish_frameLen : (s.finish).frameLen = s.frameLen := rfl
@[simp] theorem State.finish_done : (s.finish).done = true := rfl
@[simp] theorem State.finish_valid : (s.finish).valid = s.valid := rfl
@[simp] theorem State.finish_err : (s.finish).err = s.err := rfl
@[simp] theorem State.finish_results : (s.finish).results = s.results := rfl
@[simp] theorem State.finish_mem : (s.finish).mem = s.mem := rfl
@[simp] theorem State.finish_readData : (s.finish).readData = s.readData := rfl
@[simp] theorem State.finish_draws : (s.finish).draws = s.draws + s.frameLen.toNat := rfl
@[simp] theorem State.finish_schedule : (s.finish).schedule = s.schedule := rfl

/-! ### resetEvent -/

@[simp] theorem State.resetEvent_phase : (s.resetEvent).phase = .idle := rfl
@[simp] theorem State.resetEvent_frameLen : (s.resetEvent).frameLen = 0x00 := rfl
@[simp] theorem State.resetEvent_done : (s.resetEvent).done = false := rfl
@[simp] theorem State.resetEvent_valid : (s.resetEvent).valid = false := rfl
@[simp] theorem State.resetEvent_err : (s.resetEvent).err = 0b00 := rfl
@[simp] theorem State.resetEvent_results : (s.resetEvent).results = Results.zero := rfl
@[simp] theorem State.resetEvent_mem : (s.resetEvent).mem = [] := rfl
@[simp] theorem State.resetEvent_readData : (s.resetEvent).readData = s.readData := rfl
@[simp] theorem State.resetEvent_draws : (s.resetEvent).draws = s.draws := rfl
@[simp] theorem State.resetEvent_schedule : (s.resetEvent).schedule = s.schedule := rfl

end Sys2Proof.Machine
end

