-- ==== Sys2Proof/Laws/Ops.lean ====
section
/-! SUPPORT. One lemma per shared operation that says what it leaves behind: the bytes of the buffers, the registers and
STATUS. -/

namespace Sys2Proof.Machine

variable {s t : State}

/-! ### The buffers -/

theorem inByte_congr (h : t.mem = s.mem) (i : Nat) : t.inByte i = s.inByte i := by simp [State.inByte, h]

theorem outByte_congr (h : t.mem = s.mem) (i : Nat) : t.outByte i = s.outByte i := by simp [State.outByte, h]

/-! ### Updates that do not touch memory -/

@[simp] theorem inByte_respond (v : Byte) (i : Nat) : (s.respond v).inByte i = s.inByte i := rfl
@[simp] theorem outByte_respond (v : Byte) (i : Nat) : (s.respond v).outByte i = s.outByte i := rfl
@[simp] theorem inByte_respondDraw (i : Nat) : (s.respondDraw).inByte i = s.inByte i := rfl
@[simp] theorem outByte_respondDraw (i : Nat) : (s.respondDraw).outByte i = s.outByte i := rfl
@[simp] theorem inByte_setFrameLen (d : Byte) (i : Nat) : (s.setFrameLen d).inByte i = s.inByte i := rfl
@[simp] theorem outByte_setFrameLen (d : Byte) (i : Nat) : (s.setFrameLen d).outByte i = s.outByte i := rfl
@[simp] theorem inByte_setResults (r : Results) (i : Nat) : (s.setResults r).inByte i = s.inByte i := rfl
@[simp] theorem outByte_setResults (r : Results) (i : Nat) : (s.setResults r).outByte i = s.outByte i := rfl
@[simp] theorem inByte_setPhase (p : Phase) (i : Nat) : (s.setPhase p).inByte i = s.inByte i := rfl
@[simp] theorem outByte_setPhase (p : Phase) (i : Nat) : (s.setPhase p).outByte i = s.outByte i := rfl
@[simp] theorem inByte_clearFlags (i : Nat) : (s.clearFlags).inByte i = s.inByte i := rfl
@[simp] theorem outByte_clearFlags (i : Nat) : (s.clearFlags).outByte i = s.outByte i := rfl
@[simp] theorem inByte_setOutcome (v : Bool) (e : BitVec 2) (i : Nat) : (s.setOutcome v e).inByte i = s.inByte i := rfl
@[simp] theorem outByte_setOutcome (v : Bool) (e : BitVec 2) (i : Nat) : (s.setOutcome v e).outByte i = s.outByte i := rfl
@[simp] theorem inByte_finish (i : Nat) : (s.finish).inByte i = s.inByte i := rfl
@[simp] theorem outByte_finish (i : Nat) : (s.finish).outByte i = s.outByte i := rfl

/-! ### Stores -/

@[simp] theorem inByte_storeIn_same (i : Nat) (d : Byte) : (s.storeIn i d).inByte i = some d := by
  simp [State.inByte]

theorem inByte_storeIn_other {i j : Nat} (h : j ≠ i) (d : Byte) : (s.storeIn i d).inByte j = s.inByte j := by
  simp [State.inByte, Memory.read_write_other h]

theorem outByte_storeIn {i : Nat} (h : i < 256) (d : Byte) (j : Nat) : (s.storeIn i d).outByte j = s.outByte j := by
  simp only [State.outByte, State.storeIn_mem]
  rw [Memory.read_write_other (by simp; omega)]

theorem inByte_storeOut {i : Nat} (h : i < 256) (f : Nat → Byte) : (s.storeOut f).inByte i = s.inByte i := by
  simp only [State.inByte, State.storeOut_mem, Memory.read_writeRange]
  rw [if_neg (by simp; omega)]

theorem outByte_storeOut {i : Nat} (h : i < 128) (f : Nat → Byte) : (s.storeOut f).outByte i = f i := by
  simp only [State.outByte, State.storeOut_mem, Memory.read_writeRange]
  rw [if_pos (by simp; omega)]
  simp

theorem wf_storeIn (h : s.mem.Wf) {i : Nat} (hi : i < 256) (d : Byte) : (s.storeIn i d).mem.Wf :=
  Memory.wf_write h (by omega)

theorem wf_storeOut (h : s.mem.Wf) (f : Nat → Byte) : (s.storeOut f).mem.Wf := Memory.wf_writeRange h f (by simp)

/-- Memory that lists nothing: no `IN_BUF` byte is written. -/
theorem inByte_of_nil (h : s.mem = []) {i : Nat} (hi : i < 256) : s.inByte i = none := by
  rw [State.inByte, h]
  exact Memory.unlisted_inBuf hi

/-- Memory that lists nothing: every `OUT_BUF` byte is 0x00. -/
theorem outByte_of_nil (h : s.mem = []) {i : Nat} (hi : i < 128) : s.outByte i = 0x00 := by
  have : Memory.read [] (256 + i) = some 0x00 := Memory.unlisted_outBuf (by omega) (by omega)
  rw [State.outByte, h, this]
  rfl

/-! ### STATUS -/

theorem statusWord_toNat (p : Phase) (d v : Bool) (e : BitVec 2) :
    (statusWord p d v e).toNat = (if p = .busy then 1 else 0) + 2 * d.toNat + 4 * v.toNat + 8 * e.toNat := by
  revert e
  cases p <;> cases d <;> cases v <;> decide

/-- Which flags make each of the six values of STATUS. -/
theorem statusWord_cases (p : Phase) (d v : Bool) (e : BitVec 2) :
    (statusWord p d v e = 0x00 ↔ p = .idle ∧ d = false ∧ v = false ∧ e = 0) ∧
    (statusWord p d v e = 0x01 ↔ p = .busy ∧ d = false ∧ v = false ∧ e = 0) ∧
    (statusWord p d v e = 0x06 ↔ p = .idle ∧ d = true ∧ v = true ∧ e = 0) ∧
    (statusWord p d v e = 0x0A ↔ p = .idle ∧ d = true ∧ v = false ∧ e = 0b01) ∧
    (statusWord p d v e = 0x12 ↔ p = .idle ∧ d = true ∧ v = false ∧ e = 0b10) ∧
    (statusWord p d v e = 0x1A ↔ p = .idle ∧ d = true ∧ v = false ∧ e = 0b11) := by
  revert e
  cases p <;> cases d <;> cases v <;> decide

/-! ### The operations -/

/-- `clearResults` zeroes the result side and leaves the rest. -/
theorem clearResults_spec (s : State) :
    s.clearResults.results = Results.zero ∧ (∀ i < 128, s.clearResults.outByte i = 0x00) ∧
    (∀ i < 256, s.clearResults.inByte i = s.inByte i) ∧
    s.clearResults.phase = s.phase ∧ s.clearResults.frameLen = s.frameLen ∧ s.clearResults.done = s.done ∧
    s.clearResults.valid = s.valid ∧ s.clearResults.err = s.err ∧ s.clearResults.readData = s.readData ∧
    s.clearResults.draws = s.draws ∧ s.clearResults.schedule = s.schedule := by
  refine ⟨rfl, fun i h => ?_, fun i h => ?_, rfl, rfl, rfl, rfl, rfl, rfl, rfl, rfl⟩
  · rw [State.clearResults, outByte_storeOut h]
  · rw [State.clearResults, inByte_storeOut h, inByte_setResults]

/-- `accept` sets PHASE to BUSY, clears the flags and leaves the rest. -/
theorem accept_spec (s : State) :
    s.accept.phase = .busy ∧ s.accept.done = false ∧ s.accept.valid = false ∧ s.accept.err = 0b00 ∧
    s.accept.frameLen = s.frameLen ∧ s.accept.results = s.results ∧ s.accept.mem = s.mem ∧
    s.accept.readData = s.readData ∧ s.accept.draws = s.draws ∧ s.accept.schedule = s.schedule :=
  ⟨rfl, rfl, rfl, rfl, rfl, rfl, rfl, rfl, rfl, rfl⟩

/-- `clear` clears the flags and the result side and leaves the rest. -/
theorem clear_spec (s : State) :
    s.clear.done = false ∧ s.clear.valid = false ∧ s.clear.err = 0b00 ∧ s.clear.results = Results.zero ∧
    (∀ i < 128, s.clear.outByte i = 0x00) ∧ (∀ i < 256, s.clear.inByte i = s.inByte i) ∧
    s.clear.phase = s.phase ∧ s.clear.frameLen = s.frameLen ∧ s.clear.readData = s.readData ∧
    s.clear.draws = s.draws ∧ s.clear.schedule = s.schedule := by
  obtain ⟨hr, ho, hi, -⟩ := clearResults_spec s.clearFlags
  exact ⟨rfl, rfl, rfl, hr, ho, fun i h => by rw [State.clear, hi i h, inByte_clearFlags], rfl, rfl, rfl, rfl, rfl⟩

/-- `publish` writes the result side and VALID and ERR, and leaves the rest. -/
theorem publish_spec (s : State) (f : Frame) :
    (s.publish f).valid = true ∧ (s.publish f).err = 0b00 ∧ (s.publish f).results = f.fields ∧
    (∀ i < 128, (s.publish f).outByte i = f.unmasked.getD i 0x00) ∧
    (∀ i < 256, (s.publish f).inByte i = s.inByte i) ∧
    (s.publish f).phase = s.phase ∧ (s.publish f).frameLen = s.frameLen ∧ (s.publish f).done = s.done ∧
    (s.publish f).readData = s.readData ∧ (s.publish f).draws = s.draws ∧ (s.publish f).schedule = s.schedule := by
  refine ⟨rfl, rfl, rfl, fun i h => ?_, fun i h => ?_, rfl, rfl, rfl, rfl, rfl, rfl⟩
  · rw [State.publish, outByte_setOutcome, outByte_storeOut h]
  · rw [State.publish, inByte_setOutcome, inByte_storeOut h, inByte_setResults]

/-- `errorEntry` zeroes the result side, sets VALID and ERR, and leaves the rest. -/
theorem errorEntry_spec (s : State) (e : FrameError) :
    (s.errorEntry e).valid = false ∧ (s.errorEntry e).err = e.code ∧ (s.errorEntry e).results = Results.zero ∧
    (∀ i < 128, (s.errorEntry e).outByte i = 0x00) ∧ (∀ i < 256, (s.errorEntry e).inByte i = s.inByte i) ∧
    (s.errorEntry e).phase = s.phase ∧ (s.errorEntry e).frameLen = s.frameLen ∧ (s.errorEntry e).done = s.done ∧
    (s.errorEntry e).readData = s.readData ∧ (s.errorEntry e).draws = s.draws ∧
    (s.errorEntry e).schedule = s.schedule := by
  obtain ⟨hr, ho, hi, -⟩ := clearResults_spec s
  refine ⟨rfl, rfl, hr, fun i h => ?_, fun i h => ?_, rfl, rfl, rfl, rfl, rfl, rfl⟩
  · rw [State.errorEntry, outByte_setOutcome, ho i h]
  · rw [State.errorEntry, inByte_setOutcome, hi i h]

/-! ### The canonical form -/

theorem wf_clearResults (h : s.mem.Wf) : s.clearResults.mem.Wf := by
  unfold State.clearResults
  exact wf_storeOut (by simpa using h) _

theorem wf_clear (h : s.mem.Wf) : s.clear.mem.Wf := by
  unfold State.clear
  exact wf_clearResults (by simpa using h)

theorem wf_publish (h : s.mem.Wf) (f : Frame) : (s.publish f).mem.Wf := by
  rw [State.publish, State.setOutcome_mem]
  exact wf_storeOut (by simpa using h) _

theorem wf_errorEntry (h : s.mem.Wf) (e : FrameError) : (s.errorEntry e).mem.Wf := by
  rw [State.errorEntry, State.setOutcome_mem]
  exact wf_clearResults h

/-! ### The completion -/

/-- Everything a completion leaves behind but the result side and VALID and ERR. -/
theorem complete_frame (s : State) :
    s.complete.phase = .idle ∧ s.complete.done = true ∧ s.complete.frameLen = s.frameLen ∧
    (∀ i < 256, s.complete.inByte i = s.inByte i) ∧ s.complete.readData = s.readData ∧
    s.complete.draws = s.draws + s.frameLen.toNat ∧ s.complete.schedule = s.schedule := by
  rw [State.complete]
  cases s.frameResult with
  | ok f =>
    obtain ⟨-, -, -, -, hi, -, hf, -, hr, hd, hs⟩ := publish_spec s f
    simp only [State.report]
    exact ⟨rfl, rfl, hf, fun i h => by rw [inByte_finish, hi i h], hr, by simp [hd, hf], hs⟩
  | err e =>
    obtain ⟨-, -, -, -, hi, -, hf, -, hr, hd, hs⟩ := errorEntry_spec s e
    simp only [State.report]
    exact ⟨rfl, rfl, hf, fun i h => by rw [inByte_finish, hi i h], hr, by simp [hd, hf], hs⟩

/-- What a completion publishes when `decode` answered a frame. -/
theorem complete_ok {f : Frame} (h : s.frameResult = .ok f) :
    s.complete.valid = true ∧ s.complete.err = 0b00 ∧ s.complete.results = f.fields ∧
    ∀ i < 128, s.complete.outByte i = f.unmasked.getD i 0x00 := by
  obtain ⟨hv, he, hr, ho, -⟩ := publish_spec s f
  simp only [State.complete, h, State.report]
  exact ⟨hv, he, hr, fun i hi => by rw [outByte_finish, ho i hi]⟩

/-- What a completion reports when `decode` answered an error. -/
theorem complete_err {e : FrameError} (h : s.frameResult = .err e) :
    s.complete.valid = false ∧ s.complete.err = e.code ∧ s.complete.results = Results.zero ∧
    ∀ i < 128, s.complete.outByte i = 0x00 := by
  obtain ⟨hv, he, hr, ho, -⟩ := errorEntry_spec s e
  simp only [State.complete, h, State.report]
  exact ⟨hv, he, hr, fun i hi => by rw [outByte_finish, ho i hi]⟩

theorem wf_complete (h : s.mem.Wf) : s.complete.mem.Wf := by
  rw [State.complete, State.finish_mem]
  cases s.frameResult with
  | ok f => exact wf_publish h f
  | err e => exact wf_errorEntry h e

end Sys2Proof.Machine
end

