-- ==== Sys2Proof/Laws/Exec.lean ====
section
/-! SUPPORT. What each transaction answers: its equation, under the phase where the phase decides. -/

namespace Sys2Proof.Machine

variable {s : State}

@[simp] theorem whenIdle_idle {f : State → State} (h : s.phase = .idle) : s.whenIdle f = f s := by
  simp [State.whenIdle, h]

@[simp] theorem whenIdle_busy {f : State → State} (h : s.phase = .busy) : s.whenIdle f = s := by
  simp [State.whenIdle, h]

theorem exec_rdInbuf_written {i : BitVec 8} {d v : Byte} (h : s.inByte i.toNat = some v) :
    exec (.rdInbuf i d) s = .next (s.respond v) := by simp [exec, execRdInbuf, h]

theorem exec_rdInbuf_unwritten {i : BitVec 8} {d : Byte} (h : s.inByte i.toNat = none) :
    exec (.rdInbuf i d) s = .next s.respondDraw := by simp [exec, execRdInbuf, h]

theorem exec_rdOutbuf_idle {i : BitVec 7} {d : Byte} (h : s.phase = .idle) :
    exec (.rdOutbuf i d) s = .next (s.respond (s.outByte i.toNat)) := by simp [exec, execRdOutbuf, h]

theorem exec_rdOutbuf_busy {i : BitVec 7} {d : Byte} (h : s.phase = .busy) :
    exec (.rdOutbuf i d) s = .next s.respondDraw := by simp [exec, execRdOutbuf, h]

theorem exec_rdResult_unused {off : BitVec 4} {d : Byte} (h : 12 ≤ off.toNat) :
    exec (.rdResult off d) s = .next (s.respond 0x00) := by simp [exec, execRdResult, h]

theorem exec_rdResult_idle {off : BitVec 4} {d : Byte} (h : off.toNat < 12) (hp : s.phase = .idle) :
    exec (.rdResult off d) s = .next (s.respond (s.results.read off)) := by
  simp [exec, execRdResult, hp, show ¬ 12 ≤ off.toNat by omega]

theorem exec_rdResult_busy {off : BitVec 4} {d : Byte} (h : off.toNat < 12) (hp : s.phase = .busy) :
    exec (.rdResult off d) s = .next s.respondDraw := by
  simp [exec, execRdResult, hp, show ¬ 12 ≤ off.toNat by omega]

theorem exec_wrInbuf_idle {i : BitVec 8} {d : Byte} (h : s.phase = .idle) :
    exec (.wrInbuf i d) s = .next (s.storeIn i.toNat d) := by simp [exec, execWrInbuf, h]

theorem exec_wrFramelen_idle {d : Byte} (h : s.phase = .idle) :
    exec (.wrFramelen d) s = .next (s.setFrameLen d) := by simp [exec, execWrFramelen, h]

theorem exec_cmdDecode_idle (h : s.phase = .idle) : exec .cmdDecode s = .next s.accept := by
  simp [exec, execCmdDecode, h]

theorem exec_cmdClear_idle (h : s.phase = .idle) : exec .cmdClear s = .next s.clear := by
  simp [exec, execCmdClear, h]

/-- Everything a transaction can do to the machine: return a byte, return a draw, store an input byte, set the length,
accept, clear, or nothing; the last four while IDLE only. -/
theorem exec_cases (i : Instr) (s : State) :
    (∃ v, exec i s = .next (s.respond v)) ∨ exec i s = .next s.respondDraw ∨ exec i s = .next s ∨
    (s.phase = .idle ∧
      ((∃ k d, i = .wrInbuf k d ∧ exec i s = .next (s.storeIn k.toNat d)) ∨
       (∃ d, i = .wrFramelen d ∧ exec i s = .next (s.setFrameLen d)) ∨
       (i = .cmdDecode ∧ exec i s = .next s.accept) ∨ (i = .cmdClear ∧ exec i s = .next s.clear))) := by
  cases i with
  | rdInbuf i d =>
    cases h : s.inByte i.toNat with
    | some v => exact .inl ⟨v, exec_rdInbuf_written h⟩
    | none => exact .inr (.inl (exec_rdInbuf_unwritten h))
  | rdOutbuf i d =>
    cases h : s.phase with
    | idle => exact .inl ⟨_, exec_rdOutbuf_idle h⟩
    | busy => exact .inr (.inl (exec_rdOutbuf_busy h))
  | rdCmd d => exact .inl ⟨_, rfl⟩
  | rdFramelen d => exact .inl ⟨_, rfl⟩
  | rdStatus d => exact .inl ⟨_, rfl⟩
  | rdResult off d =>
    by_cases ho : off.toNat < 12
    · cases h : s.phase with
      | idle => exact .inl ⟨_, exec_rdResult_idle ho h⟩
      | busy => exact .inr (.inl (exec_rdResult_busy ho h))
    · exact .inl ⟨_, exec_rdResult_unused (by omega)⟩
  | rdRsvd a d => exact .inl ⟨_, rfl⟩
  | wrInbuf k d =>
    cases h : s.phase with
    | idle => exact .inr (.inr (.inr ⟨rfl, .inl ⟨k, d, rfl, exec_wrInbuf_idle h⟩⟩))
    | busy => exact .inr (.inr (.inl (by simp [exec, execWrInbuf, h])))
  | cmdNop => exact .inr (.inr (.inl rfl))
  | cmdDecode =>
    cases h : s.phase with
    | idle => exact .inr (.inr (.inr ⟨rfl, .inr (.inr (.inl ⟨rfl, exec_cmdDecode_idle h⟩))⟩))
    | busy => exact .inr (.inr (.inl (by simp [exec, execCmdDecode, h])))
  | cmdClear =>
    cases h : s.phase with
    | idle => exact .inr (.inr (.inr ⟨rfl, .inr (.inr (.inr ⟨rfl, exec_cmdClear_idle h⟩))⟩))
    | busy => exact .inr (.inr (.inl (by simp [exec, execCmdClear, h])))
  | cmdRsvd d => exact .inr (.inr (.inl rfl))
  | wrFramelen d =>
    cases h : s.phase with
    | idle => exact .inr (.inr (.inr ⟨rfl, .inr (.inl ⟨d, rfl, exec_wrFramelen_idle h⟩)⟩))
    | busy => exact .inr (.inr (.inl (by simp [exec, execWrFramelen, h])))
  | wrIgnored a d => exact .inr (.inr (.inl rfl))

end Sys2Proof.Machine
end

