-- ==== Sys2Proof/Laws/Frame.lean ====
section
/-! SUPPORT. The pure `decode`: its four cases, and which bytes it looks at. -/

namespace Sys2Proof.Machine

variable {bytes bytes' : Nat → Byte} {n : Byte}

theorem payloadLenField_lt (b : Byte) : (payloadLenField b).toNat < 128 := (payloadLenField b).isLt

theorem payloadLenField_toNat (b : Byte) : (payloadLenField b).toNat = b.toNat % 128 := by
  revert b; decide

/-- The marks 126 and 127 are the values above 125. -/
theorem marks_iff (p : BitVec 7) : (p = Config.ext16Mark ∨ p = Config.ext64Mark) ↔ 125 < p.toNat := by
  revert p; decide

/-- `decode` in its four cases, on the length and the length field. -/
theorem decodeFrame_cases (bytes : Nat → Byte) (n : Byte) :
    (n.toNat < 6 ∧ decodeFrame bytes n = .err .malformedInput) ∨
    (6 ≤ n.toNat ∧ 125 < (payloadLenField (bytes 1)).toNat ∧ decodeFrame bytes n = .err .unsupportedLength) ∨
    (6 ≤ n.toNat ∧ (payloadLenField (bytes 1)).toNat ≤ 125 ∧ (payloadLenField (bytes 1)).toNat ≠ n.toNat - 6 ∧
      decodeFrame bytes n = .err .inconsistentLength) ∨
    (6 ≤ n.toNat ∧ (payloadLenField (bytes 1)).toNat ≤ 125 ∧ (payloadLenField (bytes 1)).toNat = n.toNat - 6 ∧
      decodeFrame bytes n = .ok (frameOf bytes n)) := by
  simp only [decodeFrame, marks_iff, Config.hdrBytes]
  split
  · exact .inl ⟨‹_›, rfl⟩
  · split
    · exact .inr (.inl ⟨by omega, ‹_›, rfl⟩)
    · split
      · exact .inr (.inr (.inl ⟨by omega, by omega, ‹_›, rfl⟩))
      · exact .inr (.inr (.inr ⟨by omega, by omega, by omega, rfl⟩))

/-- Where `decode` answers a frame, the length and the length field agree and the frame is `frameOf`. -/
theorem decodeFrame_ok_inv {f : Frame} (h : decodeFrame bytes n = .ok f) :
    6 ≤ n.toNat ∧ (payloadLenField (bytes 1)).toNat ≤ 125 ∧ (payloadLenField (bytes 1)).toNat = n.toNat - 6 ∧
      f = frameOf bytes n := by
  rcases decodeFrame_cases bytes n with ⟨_, e⟩ | ⟨_, _, e⟩ | ⟨_, _, _, e⟩ | ⟨h1, h2, h3, e⟩ <;> rw [e] at h <;> cases h
  exact ⟨h1, h2, h3, rfl⟩

/-- The unmasked payload byte by byte, 0x00 past its end. -/
theorem frameOf_unmasked_getD (i : Nat) :
    (frameOf bytes n).unmasked.getD i 0x00 =
      if i < n.toNat - 6 then bytes (6 + i) ^^^ (headerFields bytes n).keyAt i else 0x00 := by
  simp only [frameOf, List.getD_eq_getElem?_getD, List.getElem?_map, Config.hdrBytes]
  split <;> simp [unmaskByte, *]

/-- The key byte that unmasks payload byte `i` is frame byte `2 + (i mod 4)`. -/
theorem keyAt_headerFields (i : Nat) : (headerFields bytes n).keyAt i = bytes (2 + i % 4) := by
  have : i % 4 = 0 ∨ i % 4 = 1 ∨ i % 4 = 2 ∨ i % 4 = 3 := by omega
  rcases this with h | h | h | h <;> simp [Results.keyAt, h, headerFields]

/-- A frame depends on its `n` bytes only. -/
theorem frameOf_congr (hn : 6 ≤ n.toNat) (h : ∀ j < n.toNat, bytes' j = bytes j) : frameOf bytes' n = frameOf bytes n := by
  have hf : headerFields bytes' n = headerFields bytes n := by
    simp [headerFields, h 0 (by omega), h 1 (by omega), h 2 (by omega), h 3 (by omega), h 4 (by omega), h 5 (by omega)]
  have hu : ∀ i ∈ List.range (n.toNat - 6), bytes' (6 + i) = bytes (6 + i) := fun i hi =>
    h _ (by have := List.mem_range.1 hi; omega)
  have um : (List.range (n.toNat - 6)).map (unmaskByte bytes' (headerFields bytes n)) =
      (List.range (n.toNat - 6)).map (unmaskByte bytes (headerFields bytes n)) :=
    List.map_congr_left fun i hi => by simp [unmaskByte, hu i hi]
  simp only [frameOf, hf, Config.hdrBytes, um]
  congr 1
  exact List.map_congr_left hu

/-- `decode` depends on the first `n` bytes only (40_decode.md R83). -/
theorem decodeFrame_congr (h : ∀ j < n.toNat, bytes' j = bytes j) : decodeFrame bytes' n = decodeFrame bytes n := by
  by_cases h6 : n.toNat < 6
  · simp [decodeFrame, h6]
  · simp only [decodeFrame, h 1 (by omega), frameOf_congr (by omega : 6 ≤ n.toNat) h]

end Sys2Proof.Machine
end

