-- ==== Sys2Proof/Laws/PerInstr.lean ====
section
/-! SUPPORT. Facts about every transaction as syntax, one lemma per constructor. Family RowHit: a transaction's word
passes its own row's test in the map of 30_encoding.md R58. -/

namespace Sys2Proof.Laws.RowHit

/-- The word of `i` passes the test of `i`'s row. -/
def Statement (i : Instr) : Prop :=
  hits (encode i) (transactionMap.getD (rowIndex i) (0, 1)).1 (transactionMap.getD (rowIndex i) (0, 1)).2 = true

theorem rdInbuf (i : BitVec 8) (d : Byte) : Statement (.rdInbuf i d) := by
  refine (hits_high (0b00#2 ++ i) 0x300 0 d).trans ?_
  revert i; decide

theorem rdOutbuf (i : BitVec 7) (d : Byte) : Statement (.rdOutbuf i d) := by
  refine (hits_high (0b010#3 ++ i) 0x380 0x100 d).trans ?_
  revert i; decide

theorem rdCmd (d : Byte) : Statement (.rdCmd d) := hits_high 0x180 0x3FF 0x180 d

theorem rdFramelen (d : Byte) : Statement (.rdFramelen d) := hits_high 0x181 0x3FF 0x181 d

theorem rdStatus (d : Byte) : Statement (.rdStatus d) := hits_high 0x182 0x3FF 0x182 d

theorem rdResult (off : BitVec 4) (d : Byte) : Statement (.rdResult off d) := by
  refine (hits_high (0b011001#6 ++ off) 0x3F0 0x190 d).trans ?_
  revert off; decide

theorem rdRsvd (a : Addr) (d : Byte) : Statement (.rdRsvd a d) := by
  refine (hits_high (0b0#1 ++ a) 0x200 0 d).trans ?_
  revert a; decide

theorem wrInbuf (i : BitVec 8) (d : Byte) : Statement (.wrInbuf i d) := by
  refine (hits_high (0b10#2 ++ i) 0x300 0x200 d).trans ?_
  revert i; decide

theorem cmdNop : Statement .cmdNop := rfl

theorem cmdDecode : Statement .cmdDecode := rfl

theorem cmdClear : Statement .cmdClear := rfl

theorem cmdRsvd (d : Byte) : Statement (.cmdRsvd d) := hits_high 0x380 0x3FF 0x380 d

theorem wrFramelen (d : Byte) : Statement (.wrFramelen d) := hits_high 0x381 0x3FF 0x381 d

theorem wrIgnored (a : Addr) (d : Byte) : Statement (.wrIgnored a d) := by
  refine (hits_high (0b1#1 ++ a) 0x200 0x200 d).trans ?_
  revert a; decide

end Sys2Proof.Laws.RowHit
end

