-- ==== Sys2Proof/Laws/Step.lean ====
section
/-! SUPPORT. Everything one step can do, and runs of steps. -/

namespace Sys2Proof.Machine

variable {s t : State}

/-- `s` with its pending moves replaced. -/
abbrev State.sched (s : State) (l : List Move) : State := { s with schedule := l }

theorem step_host {w : BusWord} {rest : List Move} (h : s.schedule = .host w :: rest) :
    step s = exec (decode w) (s.sched rest) := by simp [step, h]

theorem step_engine {rest : List Move} (h : s.schedule = .engine :: rest) :
    step s = .next (s.sched rest).engineMove := by simp [step, h]

theorem step_reset {rest : List Move} (h : s.schedule = .reset :: rest) :
    step s = .next (s.sched rest).resetEvent := by simp [step, h]

theorem step_nil (h : s.schedule = []) : step s = .next s.engineMove := by simp [step, h]

theorem engineMove_busy (h : s.phase = .busy) : s.engineMove = s.complete := by simp [State.engineMove, h]

theorem engineMove_idle (h : s.phase = .idle) : s.engineMove = s := by simp [State.engineMove, h]

/-- Everything a step that answers `t` can have been: a transaction, the engine's move (its turn, or no move pending), or
the reset event. -/
theorem step_cases (h : step s = .next t) :
    (∃ w rest, s.schedule = .host w :: rest ∧ exec (decode w) (s.sched rest) = .next t) ∨
    (s.schedule = [] ∧ t = s.engineMove) ∨
    (∃ rest, s.schedule = .engine :: rest ∧ t = (s.sched rest).engineMove) ∨
    (∃ rest, s.schedule = .reset :: rest ∧ t = (s.sched rest).resetEvent) := by
  cases e : s.schedule with
  | nil =>
    rw [step_nil e] at h
    exact .inr (.inl ⟨rfl, (Host.Outcome.next.inj h).symm⟩)
  | cons m rest =>
    cases m with
    | host w => exact .inl ⟨w, rest, rfl, step_host e ▸ h⟩
    | engine =>
      rw [step_engine e] at h
      exact .inr (.inr (.inl ⟨rest, rfl, (Host.Outcome.next.inj h).symm⟩))
    | reset =>
      rw [step_reset e] at h
      exact .inr (.inr (.inr ⟨rest, rfl, (Host.Outcome.next.inj h).symm⟩))

/-- The engine's turn while BUSY is the completion. -/
theorem step_engineTurn {rest : List Move} (hb : s.phase = .busy) (h : EngineTurn s rest) :
    step s = .next (s.sched rest).complete := by
  rcases h with h | ⟨h, rfl⟩
  · rw [step_engine h, engineMove_busy (s := s.sched rest) hb]
  · rw [step_nil h, engineMove_busy hb, show s.sched [] = s by rw [← h]]

theorem runSteps_succ {k : Nat} {u : State} (h : step s = .next u) : runSteps (k + 1) s = runSteps k u := by
  simp [runSteps, h]

theorem runSteps_add {a b : Nat} : ∀ {s t : State}, runSteps a s = .next t → runSteps (a + b) s = runSteps b t := by
  induction a with
  | zero => intro s t h; rw [Nat.zero_add, Host.Outcome.next.inj h]
  | succ a ih =>
    intro s t h
    rw [Nat.add_right_comm]
    unfold runSteps at h
    split at h
    · next u hu => rw [runSteps_succ hu]; exact ih h
    · cases h
    · cases h

/-- A property every step keeps holds after any number of steps. -/
theorem runSteps_keeps {P : State → Prop} (keeps : ∀ s t, P s → step s = .next t → P t) {k : Nat} :
    ∀ {s t : State}, P s → runSteps k s = .next t → P t := by
  induction k with
  | zero => intro s t hs h; exact Host.Outcome.next.inj h ▸ hs
  | succ k ih =>
    intro s t hs h
    unfold runSteps at h
    split at h
    · exact ih (keeps _ _ hs ‹_›) h
    · cases h
    · cases h

end Sys2Proof.Machine
end

