-- ==== Sys2Proof/Tests/Slice0.lean ====
section
/-! SUPPORT. The model's own tests: expected values from spec/95_test_vectors.md and 30_encoding.md, and for every
statement with hypotheses a concrete state and operands that meet them. -/

namespace Sys2Proof.Tests

open Sys2Proof Sys2Proof.Machine

set_option maxRecDepth 20000

/-! ### Well-formedness: an ill-formed term for each check -/

theorem test_wf_refuses_rdRsvd_of_inbuf : (Instr.rdRsvd 0x000 0).wf = false := by decide
theorem test_wf_refuses_rdRsvd_of_status_and_result :
    (Instr.rdRsvd 0x182 0).wf = false ∧ (Instr.rdRsvd 0x190 0).wf = false ∧ (Instr.rdRsvd 0x19F 0).wf = false := by decide
theorem test_wf_takes_rdRsvd_bounds :
    (Instr.rdRsvd 0x183 0).wf ∧ (Instr.rdRsvd 0x18F 0).wf ∧ (Instr.rdRsvd 0x1A0 0).wf ∧ (Instr.rdRsvd 0x1FF 0).wf := by
  decide
theorem test_wf_refuses_cmdRsvd_of_clear : (Instr.cmdRsvd 0x02).wf = false ∧ (Instr.cmdRsvd 0x03).wf = true := by decide
theorem test_wf_refuses_wrIgnored_of_inbuf_cmd_framelen :
    (Instr.wrIgnored 0x0FF 0).wf = false ∧ (Instr.wrIgnored 0x180 0).wf = false ∧ (Instr.wrIgnored 0x181 0).wf = false := by
  decide
theorem test_wf_takes_wrIgnored_bounds :
    (Instr.wrIgnored 0x100 0).wf ∧ (Instr.wrIgnored 0x17F 0).wf ∧ (Instr.wrIgnored 0x182 0).wf ∧
      (Instr.wrIgnored 0x1FF 0).wf := by
  decide

/-! ### Decoding: words written bit by bit, W ADDR DATA (30_encoding.md R57, R58) -/

theorem test_decode_rdInbuf : decode 0b0_010000110_00000000#18 = .rdInbuf 0x86 0 := by decide
theorem test_decode_rdOutbuf : decode 0b0_101111111_00000000#18 = .rdOutbuf 127 0 := by decide
theorem test_decode_rdCmd : decode 0b0_110000000_00000000#18 = .rdCmd 0 := by decide
theorem test_decode_rdFramelen : decode 0b0_110000001_00000000#18 = .rdFramelen 0 := by decide
theorem test_decode_rdStatus : decode 0b0_110000010_10100101#18 = .rdStatus 0xA5 := by decide
theorem test_decode_rdResult : decode 0b0_110011011_00000000#18 = .rdResult 0xB 0 := by decide
theorem test_decode_rdRsvd :
    decode 0b0_110000011_00000000#18 = .rdRsvd 0x183 0 ∧ decode 0b0_111111111_00000000#18 = .rdRsvd 0x1FF 0 := by decide
theorem test_decode_wrInbuf : decode 0b1_000000110_00010000#18 = .wrInbuf 6 0x10 := by decide
theorem test_decode_cmdNop : decode 0b1_110000000_00000000#18 = .cmdNop := by decide
theorem test_decode_cmdDecode : decode 0b1_110000000_00000001#18 = .cmdDecode := by decide
theorem test_decode_cmdClear : decode 0b1_110000000_00000010#18 = .cmdClear := by decide
theorem test_decode_cmdRsvd :
    decode 0b1_110000000_00000011#18 = .cmdRsvd 3 ∧ decode 0b1_110000000_11111111#18 = .cmdRsvd 0xFF := by decide
theorem test_decode_wrFramelen : decode 0b1_110000001_00001000#18 = .wrFramelen 8 := by decide
theorem test_decode_wrIgnored :
    decode 0b1_100000000_01010101#18 = .wrIgnored 0x100 0x55 ∧ decode 0b1_110000010_11111111#18 = .wrIgnored 0x182 0xFF := by
  decide
theorem test_decode_refuses_wide : decodeBits 24 0x40000 = .error .widerThanBusWord := by rfl

/-! ### States and helpers -/

/-- Vector S1 loaded, IDLE (95_test_vectors.md). -/
def loaded : State :=
  { State.reset with
    frameLen := 8
    mem := [(0, 0x81), (1, 0x82), (2, 0x01), (3, 0x02), (4, 0x03), (5, 0x04), (6, 0x10), (7, 0x11)] }

/-- S1 accepted, BUSY. -/
def busy : State := { loaded with phase := .busy }

/-- S1 completed: what the vector says the registers hold. -/
def completed : State :=
  { loaded with
    done := true, valid := true
    results :=
      { fin := true, rsv1 := false, rsv2 := false, rsv3 := false, opcode := 1, mask := true, payloadLen := 2,
        frameLen := 8, key0 := 1, key1 := 2, key2 := 3, key3 := 4 }
    mem := loaded.mem ++ [(0x100, 0x11), (0x101, 0x13)]
    draws := 8 }

/-- `s` with one move pending. -/
def pending (s : State) (m : Move) : State := { s with schedule := [m] }

/-- A field of the state a step answers. -/
def seen {α : Type} (o : Host.Outcome State Fault Refusal) (f : State → α) : Option α :=
  match o with
  | .next t => some (f t)
  | .fault _ => none
  | .refused _ => none

/-- What one transaction word does to `s`, seen through `f`. -/
def afterWord {α : Type} (s : State) (w : Nat) (f : State → α) : Option α := seen (step (s.withFetchWord 24 w)) f

/-! ### Reads (vectors B1 to B13, Z1 to Z3) -/

theorem test_rdInbuf_written : afterWord busy 0x00600 (·.readData) = some (some 0x10) := by decide
theorem test_rdInbuf_unwritten_is_draw : afterWord loaded 0x00800 (·.draws) = some 1 := by decide
theorem test_rdOutbuf_idle : afterWord completed 0x10100 (·.readData) = some (some 0x13) := by decide
theorem test_rdOutbuf_busy_is_draw : afterWord busy 0x10000 (·.draws) = some 1 := by decide
theorem test_rdCmd : afterWord completed 0x18000 (·.readData) = some (some 0x00) := by decide
theorem test_rdFramelen : afterWord busy 0x18100 (·.readData) = some (some 0x08) := by decide
theorem test_rdStatus : afterWord completed 0x18200 (·.readData) = some (some 0x06) := by decide
theorem test_rdStatus_busy : afterWord busy 0x18200 (·.readData) = some (some 0x01) := by decide
theorem test_rdResult_opcode : afterWord completed 0x19400 (·.readData) = some (some 0x01) := by decide
theorem test_rdResult_key3_and_unused :
    afterWord completed 0x19B00 (·.readData) = some (some 0x04) ∧ afterWord busy 0x19C00 (·.readData) = some (some 0x00) := by
  decide
theorem test_rdRsvd : afterWord busy 0x1FF00 (·.readData) = some (some 0x00) := by decide

/-! ### Writes and commands (vectors B6 to B12, C1 to C5, Z4 to Z7) -/

theorem test_wrInbuf_idle : afterWord loaded 0x20620 (·.inByte 6) = some (some 0x20) := by decide
theorem test_wrInbuf_busy_dropped : afterWord busy 0x20620 id = some busy := by decide
theorem test_wrFramelen_idle : afterWord loaded 0x381FF (·.frameLen) = some 0xFF := by decide
theorem test_wrFramelen_busy_dropped : afterWord busy 0x38105 id = some busy := by decide
theorem test_wrIgnored_outbuf : afterWord State.reset 0x30055 id = some State.reset := by decide
theorem test_wrIgnored_status : afterWord completed 0x382FF id = some completed := by decide
theorem test_cmdNop_keeps_done : afterWord completed 0x38000 (·.status) = some 0x06 := by decide
theorem test_cmdRsvd_keeps_done : afterWord completed 0x380FF (·.status) = some 0x06 := by decide
theorem test_cmdDecode_accepts : afterWord completed 0x38001 (fun t => (t.status, t.phase)) = some (0x01, .busy) := by decide
theorem test_cmdDecode_busy_ignored : afterWord busy 0x38001 id = some busy := by decide
theorem test_cmdClear : afterWord completed 0x38002 id = some { loaded with draws := 8 } := by decide
theorem test_cmdClear_busy_ignored : afterWord busy 0x38002 id = some busy := by decide

/-! ### The engine and reset (vectors S1, L3, L6, L8, L9, Z8) -/

theorem test_completion_S1 : seen (step (pending busy .engine)) id = some completed := by decide
theorem test_completion_error_blanks_results :
    seen (step { completed with phase := .busy, done := false, valid := false, frameLen := 5 })
      (fun t => (t.status, t.results, t.outByte 0, t.frameLen)) = some (0x0A, Results.zero, 0x00, 5) := by decide
theorem test_engine_idle : seen (step (pending completed .engine)) id = some completed := by decide
theorem test_reset_while_busy : seen (step (pending busy .reset)) id = some State.reset := by decide

/-! ### The pure decode (95_test_vectors.md sections 1 and 2) -/

/-- The error of a frame, if any. -/
def errorOf (bs : List Byte) : Option FrameError :=
  match decodeList bs with
  | .ok _ => none
  | .err e => some e

/-- The unmasked payload of a frame, if it decodes. -/
def unmaskedOf (bs : List Byte) : Option (List Byte) :=
  match decodeList bs with
  | .ok f => some f.unmasked
  | .err _ => none

theorem test_L3_malformed : errorOf [0x81, 0xFE, 0, 0, 0] = some .malformedInput := by decide
theorem test_L5_unsupported : errorOf [0x81, 0xFF, 0, 0, 0, 0] = some .unsupportedLength := by decide
theorem test_L6_unsupported_though_consistent :
    errorOf ([0x81, 0x7E] ++ List.replicate 130 0) = some .unsupportedLength := by decide
theorem test_L8_shortfall : errorOf [0x81, 0x85, 1, 2, 3, 4] = some .inconsistentLength := by decide
theorem test_L9_excess : errorOf [0x81, 0x82, 1, 2, 3, 4, 0x10, 0x11, 0x12] = some .inconsistentLength := by decide
theorem test_U4_key_cycles :
    unmaskedOf [0x82, 0x85, 0xAA, 0xBB, 0xCC, 0xDD, 0, 0, 0, 0, 0] = some [0xAA, 0xBB, 0xCC, 0xDD, 0xAA] := by decide
theorem test_U10_hello :
    unmaskedOf [0x81, 0x85, 0x37, 0xFA, 0x21, 0x3D, 0x7F, 0x9F, 0x4D, 0x51, 0x58] =
      some [0x48, 0x65, 0x6C, 0x6C, 0x6F] := by decide
theorem test_H4_header :
    headerFields (fun j => [0x3C, 0x83, 0xFF, 0xFF, 0xFF, 0xFF, 0x00, 0xFF, 0x0F].getD j 0) 9 =
      { fin := false, rsv1 := false, rsv2 := true, rsv3 := true, opcode := 0xC, mask := true, payloadLen := 3,
        frameLen := 9, key0 := 0xFF, key1 := 0xFF, key2 := 0xFF, key3 := 0xFF } := by decide

/-! ### Memory and the host program -/

theorem test_memory_write_of_default_unlists : Memory.write [(3, 7), (0x100, 5)] 0x100 0 = [(3, 7)] := by decide
theorem test_memory_write_keeps_zero_of_inBuf : Memory.write [(3, 7)] 1 0 = [(1, 0), (3, 7)] := by decide
theorem test_host_branch :
    (({ program := [.label 9, .rd .status 0, .bnz 0 0 9], line := 2, vars := [(0, 0x01)], block := busy } :
      HostRun).turn .host).map (·.line) = some 1 := by decide
theorem test_host_read :
    (({ program := [.rd .status 0], line := 0, vars := [], block := busy } : HostRun).turn .host).map (·.vars) =
      some [(0, 0x01)] := by decide
theorem test_assembler_rejects : assembleWr (.num 0x200) 0 = none ∧ assembleWr .cmd 0x100 = none := by decide

/-! ### Witnesses: for every statement with hypotheses, states and operands that meet them, at the bounds of its clauses -/

/-- `s` with the moves pending. -/
def withMoves (s : State) (moves : List Move) : State := { s with schedule := moves }

/-- BUSY, the engine next, a frame of `n` bytes of which only byte 1 is written. -/
def shortFrame (n b1 : Byte) : State :=
  { State.reset with phase := .busy, frameLen := n, mem := [(1, b1)], schedule := [.engine] }

/-- Vector S1's bytes as the decode function takes them. -/
def bytesS1 (j : Nat) : Byte := ([0x81, 0x82, 0x01, 0x02, 0x03, 0x04, 0x10, 0x11] : List Byte).getD j 0

/-- The same with byte 0 and the MASK bit changed. -/
def bytesS1' (j : Nat) : Byte := ([0x7C, 0x02, 0x01, 0x02, 0x03, 0x04, 0x10, 0x11] : List Byte).getD j 0

/-- A frame of five zero payload bytes (vector U4). -/
def bytesU4 (j : Nat) : Byte := ([0x82, 0x85, 0xAA, 0xBB, 0xCC, 0xDD, 0, 0, 0, 0, 0] : List Byte).getD j 0

theorem witness_EncodeThenDecodeIsIdentity :
    (Instr.rdRsvd 0x1FF 0xFF).wf = true ∧ (Instr.cmdRsvd 0x03).wf = true ∧ (Instr.wrIgnored 0x17F 0xFF).wf = true ∧
      (Instr.rdInbuf 0xFF 0xFF).wf = true ∧ (Instr.rdResult 0xF 0x01).wf = true := by decide

theorem witness_ReadAddressSelectsTransaction :
    decode (readWord 0x000 1) = .rdInbuf 0x00 1 ∧ decode (readWord 0x0FF 1) = .rdInbuf 0xFF 1 ∧
    decode (readWord 0x100 1) = .rdOutbuf 0 1 ∧ decode (readWord 0x17F 1) = .rdOutbuf 127 1 ∧
    decode (readWord 0x180 1) = .rdCmd 1 ∧ decode (readWord 0x181 1) = .rdFramelen 1 ∧
    decode (readWord 0x182 1) = .rdStatus 1 ∧ decode (readWord 0x183 1) = .rdRsvd 0x183 1 ∧
    decode (readWord 0x18F 1) = .rdRsvd 0x18F 1 ∧ decode (readWord 0x190 1) = .rdResult 0x0 1 ∧
    decode (readWord 0x19F 1) = .rdResult 0xF 1 ∧ decode (readWord 0x1A0 1) = .rdRsvd 0x1A0 1 ∧
    decode (readWord 0x1FF 1) = .rdRsvd 0x1FF 1 := by decide

theorem witness_WriteAddressSelectsTransaction :
    decode (writeWord 0x000 1) = .wrInbuf 0x00 1 ∧ decode (writeWord 0x0FF 1) = .wrInbuf 0xFF 1 ∧
    decode (writeWord 0x100 1) = .wrIgnored 0x100 1 ∧ decode (writeWord 0x17F 1) = .wrIgnored 0x17F 1 ∧
    decode (writeWord 0x180 0) = .cmdNop ∧ decode (writeWord 0x180 1) = .cmdDecode ∧
    decode (writeWord 0x180 2) = .cmdClear ∧ decode (writeWord 0x180 3) = .cmdRsvd 3 ∧
    decode (writeWord 0x180 0xFF) = .cmdRsvd 0xFF ∧ decode (writeWord 0x181 1) = .wrFramelen 1 ∧
    decode (writeWord 0x182 1) = .wrIgnored 0x182 1 ∧ decode (writeWord 0x1FF 1) = .wrIgnored 0x1FF 1 := by decide

theorem witness_PseudoInstructionsHaveTheirWords :
    assemble (Pseudo.setlen 255).expand = some [0x381FF] ∧ assemble (Pseudo.load 255 255).expand = some [0x2FFFF] ∧
    assemble (Pseudo.loadframe []).expand = some [0x38100] ∧
    assemble (Pseudo.loadframe [0x81, 0xFF]).expand = some [0x20081, 0x201FF, 0x38102] := by decide

theorem witness_AssemblerRejectsOutOfRange :
    (assembleRd (.num 0x1FF)).isSome = true ∧ (assembleRd (.num 0x200)).isSome = false ∧
    (assembleWr (.num 0x1FF) 0xFF).isSome = true ∧ (assembleWr (.num 0) 0x100).isSome = false ∧
    (assembleRd (.inBuf 255)).isSome = true ∧ (assembleRd (.inBuf 256)).isSome = false ∧
    (assembleRd (.outBuf 127)).isSome = true ∧ (assembleRd (.outBuf 128)).isSome = false := by decide

theorem witness_StepPerformsTheDecodedTransaction :
    (withMoves busy [.host 0x18200, .engine]).schedule = .host 0x18200 :: [.engine] ∧
    decodeTableWord 24 0x18200 = some (.rdStatus 0) ∧ (Instr.rdRsvd 0x183 0).wf = true := ⟨rfl, by decide, by decide⟩

theorem witness_ReadInBufReturnsWrittenByteOrDraw :
    loaded.inByte (0x07 : BitVec 8).toNat = some 0x11 ∧ loaded.written (0x08 : BitVec 8).toNat = false ∧
      loaded.written (0xFF : BitVec 8).toNat = false := by decide

theorem witness_ReadOutBufReturnsByteOrDraw :
    completed.phase = .idle ∧ completed.outByte (1 : BitVec 7).toNat = 0x13 ∧ completed.outByte (127 : BitVec 7).toNat = 0 ∧
      busy.phase = .busy := by decide

theorem witness_ReadResultReturnsRegisterOrDraw :
    12 ≤ (0xC : BitVec 4).toNat ∧ (0xB : BitVec 4).toNat < 12 ∧ busy.phase = .busy ∧ completed.phase = .idle ∧
    completed.results.read 0x0 = 0x01 ∧ completed.results.read 0x4 = 0x01 ∧ completed.results.read 0x6 = 0x02 ∧
    completed.results.read 0xB = 0x04 := by decide

theorem witness_ReadsAreIdempotent :
    ∃ t u : State, (0x18200 : BusWord).getLsbD 17 = false ∧ exec (decode 0x18200) completed = .next t ∧
      t.draws = completed.draws ∧ exec (decode 0x18200) t = .next u :=
  ⟨_, _, by decide, rfl, rfl, rfl⟩

theorem witness_BusyResultReadsDrawAnew :
    ∃ t u : State, busy.phase = .busy ∧ (0x100 ≤ (0x17F : Addr).toNat ∧ (0x17F : Addr).toNat < 0x180) ∧
      (0x190 ≤ (0x19B : Addr).toNat ∧ (0x19B : Addr).toNat < 0x19C) ∧
      exec (decode (readWord 0x17F 0)) busy = .next t ∧ exec (decode (readWord 0x19B 0)) t = .next u :=
  ⟨_, _, rfl, by decide, by decide, rfl, rfl⟩

theorem witness_WriteInBufStoresWhileIdle :
    loaded.phase = .idle ∧ busy.phase = .busy ∧
      (loaded.storeIn (0xFF : BitVec 8).toNat 0x55).inByte 0xFF = some 0x55 := by decide

theorem witness_WriteFrameLenStoresWhileIdle : loaded.phase = .idle ∧ busy.phase = .busy := by decide

theorem witness_DecodeIsAcceptedWhileIdle :
    completed.phase = .idle ∧ State.reset.phase = .idle ∧ State.reset.frameLen = 0 ∧ busy.phase = .busy := by decide

theorem witness_ClearBlanksTheResultSide : completed.phase = .idle ∧ completed.outByte 1 = 0x13 := by decide

theorem witness_CommandWriteDispatches : busy.phase = .busy ∧ completed.phase = .idle := by decide

theorem witness_WritesWhileBusyAreDropped :
    busy.phase = .busy ∧ (0x0FF : Addr).toNat < 0x100 ∧ (0x181 : Addr).toNat = 0x181 ∧ (0x180 : Addr).toNat = 0x180 := by
  decide

theorem witness_TransactionsWhileBusyKeepTheBlock : busy.phase = .busy := by decide

theorem witness_InputWritesCommute :
    ∃ t t' u u' v v' : State, loaded.mem.Wf ∧ (0x00 : BitVec 8) ≠ 0xFF ∧
      exec (.wrInbuf 0x00 0x82) loaded = .next t ∧ exec (.wrInbuf 0xFF 0x09) t = .next u ∧
      exec (.wrInbuf 0xFF 0x09) loaded = .next t' ∧ exec (.wrInbuf 0x00 0x82) t' = .next u' ∧
      exec (.wrFramelen 0x09) t = .next v ∧ exec (.wrFramelen 0x09) loaded = .next v' :=
  ⟨_, _, _, _, _, _, by decide, by decide, rfl, rfl, rfl, rfl, rfl, rfl⟩

theorem witness_ResetEventGivesResetValues :
    (withMoves busy [.reset, .engine]).schedule = .reset :: [.engine] ∧ (withMoves busy [.reset]).phase = .busy :=
  ⟨rfl, rfl⟩

theorem witness_NoDecodeSurvivesReset :
    ∃ t : State, (withMoves busy [.reset, .engine]).schedule = .reset :: [.engine] ∧
      .host 0x38001 ∉ ([.engine] : List Move) ∧ runSteps (2 + 1) (withMoves busy [.reset, .engine]) = .next t :=
  ⟨_, rfl, by decide, rfl⟩

theorem witness_FramePositionsCountFromTheTop : (0 : Nat) ≤ 7 ∧ (7 : Nat) ≤ 7 ∧ bitAt 0x80 0 = true ∧ bitAt 0x01 7 = true := by
  decide

theorem witness_DecodedFramesHaveTheirLengths :
    decodeFrame bytesS1 8 = .ok (frameOf bytesS1 8) ∧
      decodeFrame (fun j => if j = 1 then 0x00 else 0xFF) 6 = .ok (frameOf (fun j => if j = 1 then 0x00 else 0xFF) 6) ∧
      decodeFrame (fun j => if j = 1 then 0x7D else 0xFF) 131 = .ok (frameOf (fun j => if j = 1 then 0x7D else 0xFF) 131) :=
  ⟨rfl, rfl, rfl⟩

theorem witness_PayloadCharactersAreByteValues :
    decodeFrame bytesS1 8 = .ok (frameOf bytesS1 8) ∧ (frameOf bytesS1 8).unmasked[1]? = some 0x13 := ⟨rfl, by decide⟩

theorem witness_HeaderFlagsDecideNothing :
    (∀ j, 2 ≤ j → bytesS1' j = bytesS1 j) ∧ (bytesS1' 1 &&& 0x7F) = (bytesS1 1 &&& 0x7F) ∧
      decodeFrame bytesS1 8 = .ok (frameOf bytesS1 8) ∧ decodeFrame bytesS1' 8 = .ok (frameOf bytesS1' 8) ∧
      decodeFrame bytesS1 9 = .err .inconsistentLength := by
  refine ⟨fun j h => ?_, by decide, rfl, rfl, rfl⟩
  obtain ⟨k, rfl⟩ := Nat.exists_eq_add_of_le' h
  rfl

theorem witness_UnmaskRoundTrip :
    decodeFrame bytesS1 8 = .ok (frameOf bytesS1 8) ∧ (frameOf bytesS1 8).unmasked[0]? = some 0x11 := ⟨rfl, by decide⟩

theorem witness_UnmaskCornerLaws :
    decodeFrame bytesU4 11 = .ok (frameOf bytesU4 11) ∧ (frameOf bytesU4 11).unmasked[0]? = some 0xAA ∧
      (frameOf bytesU4 11).masked[0]? = some 0x00 ∧ (frameOf bytesU4 11).unmasked[0 + 4]? = some 0xAA ∧
      (frameOf bytesU4 11).masked[0 + 4]? = some 0x00 := ⟨rfl, by decide, by decide, by decide, by decide⟩

/-- The three bounds: Scenario 1, the empty payload and the longest payload; and no move pending. -/
theorem witness_CompletionPublishesTheFrame :
    ((pending busy .engine).phase = .busy ∧ EngineTurn (pending busy .engine) [] ∧ EngineTurn busy [] ∧
      6 ≤ busy.frameLen.toNat ∧ (busy.engineByte 1 &&& 0x7F).toNat ≤ 125 ∧
      (busy.engineByte 1 &&& 0x7F).toNat = busy.frameLen.toNat - 6) ∧
    ((shortFrame 6 0x80).phase = .busy ∧ EngineTurn (shortFrame 6 0x80) [] ∧ 6 ≤ (shortFrame 6 0x80).frameLen.toNat ∧
      ((shortFrame 6 0x80).engineByte 1 &&& 0x7F).toNat = (shortFrame 6 0x80).frameLen.toNat - 6) ∧
    (EngineTurn (shortFrame 131 0xFD) [] ∧ ((shortFrame 131 0xFD).engineByte 1 &&& 0x7F).toNat ≤ 125 ∧
      ((shortFrame 131 0xFD).engineByte 1 &&& 0x7F).toNat = (shortFrame 131 0xFD).frameLen.toNat - 6) :=
  ⟨⟨rfl, .inl rfl, .inr ⟨rfl, rfl⟩, by decide, by decide, by decide⟩, ⟨rfl, .inl rfl, by decide, by decide⟩,
    ⟨.inl rfl, by decide, by decide⟩⟩

/-- Each error at its bounds: 0 and 5 bytes (with a length field of 126), fields 126 and 127 (with a consistent length
too), and a shortfall and an excess. -/
theorem witness_CompletionReportsTheFirstError :
    (shortFrame 0 0xFE).frameLen.toNat < 6 ∧ (shortFrame 5 0xFE).frameLen.toNat < 6 ∧
    (6 ≤ (shortFrame 6 0xFF).frameLen.toNat ∧ ((shortFrame 6 0xFF).engineByte 1 &&& 0x7F).toNat = 127) ∧
    (6 ≤ (shortFrame 132 0x7E).frameLen.toNat ∧ ((shortFrame 132 0x7E).engineByte 1 &&& 0x7F).toNat = 126) ∧
    (6 ≤ (shortFrame 6 0x81).frameLen.toNat ∧ ((shortFrame 6 0x81).engineByte 1 &&& 0x7F).toNat ≤ 125 ∧
      ((shortFrame 6 0x81).engineByte 1 &&& 0x7F).toNat ≠ (shortFrame 6 0x81).frameLen.toNat - 6) ∧
    (((shortFrame 255 0x7D).engineByte 1 &&& 0x7F).toNat ≤ 125 ∧
      ((shortFrame 255 0x7D).engineByte 1 &&& 0x7F).toNat ≠ (shortFrame 255 0x7D).frameLen.toNat - 6) ∧
    (shortFrame 5 0xFE).phase = .busy := by decide

theorem witness_CompletionReportsTheFirstError_turn (n b1 : Byte) : EngineTurn (shortFrame n b1) [] := .inl rfl

/-- Two states that differ only past the frame, and one in the error case. -/
theorem witness_CompletionReadsOnlyItsFootprint :
    let s := pending busy .engine
    let s' := pending { busy with mem := busy.mem ++ [(9, 0x55)] } .engine
    (∃ t t' : State, s.phase = .busy ∧ s'.phase = .busy ∧ EngineTurn s [] ∧ EngineTurn s' [] ∧ s'.frameLen = s.frameLen ∧
      (s.engineByte 1 &&& 0x7F).toNat = s.frameLen.toNat - 6 ∧ (s.engineByte 1 &&& 0x7F).toNat ≤ 125 ∧
      step s = .next t ∧ step s' = .next t') ∧
    (∀ j < s.frameLen.toNat, s'.inByte j = s.inByte j ∧ (s.inByte j).isSome) ∧
    ((shortFrame 5 0x01).frameLen.toNat < 6 ∧
      ((shortFrame 7 0x02).engineByte 1 &&& 0x7F).toNat ≠ (shortFrame 7 0x02).frameLen.toNat - 6) :=
  ⟨⟨_, _, rfl, rfl, .inl rfl, .inl rfl, rfl, by decide, by decide, rfl, rfl⟩, by decide, by decide⟩

theorem witness_EngineDoesNothingWhileIdle :
    completed.phase = .idle ∧ EngineTurn completed [] ∧ EngineTurn (pending completed .engine) [] :=
  ⟨rfl, .inr ⟨rfl, rfl⟩, .inl rfl⟩

/-- An accept, a completion by either form of the engine's turn, and a reset. -/
theorem witness_PhaseChangesOnlyByAcceptCompletionReset :
    (∃ t : State, step (pending completed (.host 0x38001)) = .next t ∧ completed.phase = .idle ∧ t.phase = .busy) ∧
    (∃ t : State, step (pending busy .engine) = .next t ∧ EngineTurn (pending busy .engine) [] ∧ t.phase = .idle) ∧
    (∃ t : State, step busy = .next t ∧ EngineTurn busy [] ∧ t.phase = .idle) ∧
    ∃ t : State, step (pending busy .reset) = .next t ∧ t.phase = .idle :=
  ⟨⟨_, rfl, rfl, rfl⟩, ⟨_, rfl, .inl rfl, rfl⟩, ⟨_, rfl, .inr ⟨rfl, rfl⟩, rfl⟩, ⟨_, rfl, rfl⟩⟩

theorem witness_DoneIsWrittenOnlyByItsWriters :
    (∃ t : State, step (pending busy .engine) = .next t ∧ busy.done = false ∧ t.done = true) ∧
    (∃ t : State, step (pending completed (.host 0x38001)) = .next t ∧ completed.done = true ∧ t.done = false) ∧
    (∃ t : State, step (pending completed (.host 0x38002)) = .next t ∧ completed.phase = .idle ∧ t.done = false) ∧
    ∃ t : State, step (pending completed .reset) = .next t ∧ t.done = false :=
  ⟨⟨_, rfl, rfl, rfl⟩, ⟨_, rfl, rfl, rfl⟩, ⟨_, rfl, rfl, rfl⟩, ⟨_, rfl, rfl⟩⟩

theorem witness_ValidAndErrAreWrittenOnlyByTheirWriters :
    (∃ t : State, step (pending busy .engine) = .next t) ∧ EngineTurn (pending busy .engine) [] ∧
    (pending busy .engine).frameResult = .ok (frameOf (pending busy .engine).engineByte 8) ∧
    (shortFrame 5 0x80).frameResult = .err .malformedInput ∧
    (shortFrame 6 0x7E).frameResult = .err .unsupportedLength ∧
    (shortFrame 6 0x01).frameResult = .err .inconsistentLength ∧
    (pending completed (.host 0x38002)).schedule = .host 0x38002 :: [] :=
  ⟨⟨_, rfl⟩, .inl rfl, rfl, rfl, rfl, rfl, rfl⟩

theorem witness_ResultsChangeOnlyAtCompletionClearReset :
    ∃ t : State, step (pending completed (.host 0x38002)) = .next t ∧ t.results ≠ completed.results :=
  ⟨_, rfl, by decide⟩

theorem witness_InputChangesOnlyByHostWriteOrReset :
    ∃ t : State, step (pending loaded (.host (writeWord 0x0FF 0x55))) = .next t ∧ t.inByte 0xFF ≠ loaded.inByte 0xFF :=
  ⟨_, rfl, by decide⟩

theorem witness_EveryStepKeepsTheInvariant : Inv completed ∧ ∃ t : State, step completed = .next t := by
  have hf : ResultsOfFrame completed :=
    ⟨by decide, by decide, fun i h1 h2 => (by decide : ∀ i < 128, 2 ≤ i → completed.outByte i = 0x00) i h2 h1⟩
  exact ⟨⟨by decide, by decide, .inr hf, fun _ h => absurd h (by decide), fun _ => hf⟩, _, rfl⟩

theorem witness_InvariantStatesRunSafely : Inv busy := by
  have hb : ResultsBlank busy := ⟨rfl, by decide⟩
  exact ⟨by decide, by decide, .inl hb, fun h => absurd h (by decide), fun h => absurd h (by decide)⟩

/-- From reset: nothing pending, and an accepted DECODE of no bytes with its completion. -/
theorem witness_ReachableStatusValuesAreExactlySix :
    (∃ s, Reachable s ∧ s.status = 0x00) ∧ (∃ s, Reachable s ∧ s.status = 0x01) ∧ ∃ s, Reachable s ∧ s.status = 0x0A :=
  ⟨⟨_, ⟨[], 0, rfl⟩, by decide⟩, ⟨_, ⟨[.host 0x38001], 1, rfl⟩, by decide⟩,
    ⟨_, ⟨[.host 0x38001, .engine], 2, rfl⟩, by rfl⟩⟩

theorem witness_DecodeInProgressEnds : busy.phase = .busy ∧ (withMoves busy [.host 0x18200, .host 0x38001]).phase = .busy :=
  ⟨rfl, rfl⟩

theorem witness_DecodeEndsAsFunctionOfAcceptedInput :
    let s := withMoves loaded (.host 0x38001 :: (([0x18200, 0x20655] : List BusWord).map .host ++ .engine :: []))
    s.phase = .idle ∧ s.schedule = .host 0x38001 :: (([0x18200, 0x20655] : List BusWord).map .host ++ .engine :: []) ∧
      ∀ j < s.frameLen.toNat, s.written j = true := ⟨rfl, rfl, by decide⟩

theorem witness_LoadedFrameIsDecoded :
    let bs : List Byte := [0x81, 0x80, 1, 2, 3, 4]
    let s := withMoves completed ((List.range bs.length).map
      (fun i => .host (writeWord (BitVec.ofNat 9 i) (bs.getD i 0x00))) ++
      .host (writeWord 0x181 (BitVec.ofNat 8 bs.length)) :: .host 0x38001 :: .engine :: [])
    s.phase = .idle ∧ bs.length ≤ 255 ∧ (List.replicate 255 (0 : Byte)).length ≤ 255 ∧
      s.schedule = (List.range bs.length).map (fun i => .host (writeWord (BitVec.ofNat 9 i) (bs.getD i 0x00))) ++
        .host (writeWord 0x181 (BitVec.ofNat 8 bs.length)) :: .host 0x38001 :: .engine :: [] :=
  ⟨rfl, by decide, by decide, rfl⟩

theorem witness_HostBranchesNeverTouchTheBlock :
    let r : HostRun := { program := [.label 9, .rd .status 0, .bnz 0 0 9], line := 2, vars := [(0, 0x01)], block := busy }
    r.program[r.line]? = some (.bnz 0 0 9) ∧ (∀ a v, HostLine.bnz 0 0 9 ≠ .rd a v) ∧ (∀ a d, HostLine.bnz 0 0 9 ≠ .wr a d) ∧
      ∃ r', r.turn .host = some r' := ⟨rfl, nofun, nofun, _, rfl⟩

end Sys2Proof.Tests
end

section
/-! Frame bit positions (00_scope.md R9): the byte `0x80 >> p` is the power of two `2 ^ (7 - p)`, so `BIT(b, p)` reads
one bit of `b`. -/

namespace Sys2Proof.Machine

theorem twoPow_ne_zero {w i : Nat} (hi : i < w) : BitVec.twoPow w i ≠ 0#w := by
  intro h
  have hbit := congrArg (BitVec.getLsbD · i) h
  simp [hi] at hbit

/-- What a mask of one bit keeps is not 0 exactly when that bit is set. -/
theorem and_twoPow_ne_zero_iff {w i : Nat} (x : BitVec w) (hi : i < w) :
    x &&& BitVec.twoPow w i ≠ 0#w ↔ x.getLsbD i = true := by
  rw [BitVec.and_twoPow]
  split
  · exact iff_of_true (twoPow_ne_zero hi) ‹_›
  · exact iff_of_false (fun h => h rfl) ‹_›

theorem topBit_ushiftRight {p : Nat} (hp : p ≤ 7) : 0x80#8 >>> p = BitVec.twoPow 8 (7 - p) := by
  interval_cases p <;> rfl

/-- Shifting 0x80 as a number and then taking the byte loses nothing: the number stays below 256. -/
theorem natCast_topBit_shiftRight (p : Nat) : ((0x80 >>> p : Nat) : Byte) = 0x80#8 >>> p := by
  have hlt : 0x80 >>> p < 2 ^ 8 := (Nat.shiftRight_le 0x80 p).trans_lt (by decide)
  exact BitVec.eq_of_toNat_eq (Nat.mod_eq_of_lt hlt)

theorem bitAt_iff (b : Byte) (p : Nat) : bitAt b p = true ↔ b &&& 0x80#8 >>> p ≠ 0#8 := bne_iff_ne

theorem bitAt_eq_getLsbD (b : Byte) {p : Nat} (hp : p ≤ 7) : bitAt b p = b.getLsbD (7 - p) := by
  rw [Bool.eq_iff_iff, bitAt_iff, topBit_ushiftRight hp, and_twoPow_ne_zero_iff b (by omega)]

/-- Settles O32: the mask form is `bitAt`'s own, with 0x80 shifted as a number in the statement, and the mask selects
bit `7 - p`. -/
theorem framePositionsCountFromTheTop : Obligations.FramePositionsCountFromTheTop := by
  intro b p hp
  rw [natCast_topBit_shiftRight]
  exact ⟨bitAt_iff b p, bitAt_eq_getLsbD b hp⟩

end Sys2Proof.Machine
end

section
/-! The writers of PHASE, of the flags and of the result side (10_state.md R15, R21): what a step can do to them, and
what each writer's step answers. -/

namespace Sys2Proof.Machine

variable {s t : State} {w : BusWord} {rest : List Move}

/-! ### The command words (30_encoding.md R58) -/

theorem hits_allOnes_iff {p : BusWord} : hits w 0x3FFFF p = true ↔ w = p := by
  have all : w &&& 0x3FFFF = w := BitVec.and_allOnes
  rw [hits, all, beq_iff_eq]

/-- Only the DECODE word reads as a DECODE: its row tests the whole word, and no other row answers one. -/
theorem decode_eq_cmdDecode_iff : decode w = .cmdDecode ↔ w = 0x38001 := by
  refine ⟨fun h => ?_, fun h => h ▸ rfl⟩
  by_contra hw
  have hrow : ¬ hits w 0x3FFFF 0x38001 = true := mt hits_allOnes_iff.1 hw
  simp only [decode, if_neg hrow, ite_eq_iff, reduceCtorEq, and_false, or_self] at h

/-- Only the CLEAR word reads as a CLEAR, in the same way. -/
theorem decode_eq_cmdClear_iff : decode w = .cmdClear ↔ w = 0x38002 := by
  refine ⟨fun h => ?_, fun h => h ▸ rfl⟩
  by_contra hw
  have hrow : ¬ hits w 0x3FFFF 0x38002 = true := mt hits_allOnes_iff.1 hw
  simp only [decode, if_neg hrow, ite_eq_iff, reduceCtorEq, and_false, or_self] at h

/-! ### What each writer's step answers -/

theorem eq_of_step {u : State} (h : step s = .next t) (h' : step s = .next u) : t = u :=
  Host.Outcome.next.inj (h.symm.trans h')

theorem step_decodeWord_idle (hp : s.phase = .idle) (h : s.schedule = .host 0x38001 :: rest) :
    step s = .next (s.sched rest).accept := by
  rw [step_host h, decode_eq_cmdDecode_iff.2 rfl]
  exact exec_cmdDecode_idle hp

/-- A DECODE while BUSY is ignored (70_reset_and_hazards.md R128). -/
theorem step_decodeWord_busy (hp : s.phase = .busy) (h : s.schedule = .host 0x38001 :: rest) :
    step s = .next (s.sched rest) := by
  rw [step_host h, decode_eq_cmdDecode_iff.2 rfl]
  exact congrArg Host.Outcome.next (whenIdle_busy hp)

theorem step_clearWord_idle (hp : s.phase = .idle) (h : s.schedule = .host 0x38002 :: rest) :
    step s = .next (s.sched rest).clear := by
  rw [step_host h, decode_eq_cmdClear_iff.2 rfl]
  exact exec_cmdClear_idle hp

/-- The engine's turn while IDLE only uses up its move. -/
theorem step_engineTurn_idle (hp : s.phase = .idle) (h : EngineTurn s rest) : step s = .next (s.sched rest) := by
  rcases h with h | ⟨h, rfl⟩
  · rw [step_engine h, engineMove_idle (s := s.sched rest) hp]
  · rw [step_nil h, engineMove_idle hp, show s.sched [] = s by rw [← h]]

/-! ### Everything a step can do to PHASE, the flags and the result side -/

/-- `t` has `s`'s PHASE, flags and result side: all of its WSFP state but the input side. -/
structure SameControl (s t : State) : Prop where
  phase : t.phase = s.phase
  flags : SameFlags s t
  results : SameResults s t

theorem sameControl_sched : SameControl s (s.sched rest) := ⟨rfl, ⟨rfl, rfl, rfl⟩, ⟨rfl, fun _ _ => rfl⟩⟩

theorem SameControl.trans {u : State} (h : SameControl s t) (h' : SameControl t u) : SameControl s u where
  phase := h'.phase.trans h.phase
  flags := ⟨h'.flags.done.trans h.flags.done, h'.flags.valid.trans h.flags.valid, h'.flags.err.trans h.flags.err⟩
  results := ⟨h'.results.regs.trans h.results.regs,
    fun i hi => (h'.results.outBuf i hi).trans (h.results.outBuf i hi)⟩

/-- A transaction keeps PHASE, the flags and the result side, unless it is a DECODE or a CLEAR while IDLE. -/
theorem exec_control_cases {i : Instr} (h : exec i s = .next t) :
    SameControl s t ∨ (s.phase = .idle ∧ (i = .cmdDecode ∧ t = s.accept ∨ i = .cmdClear ∧ t = s.clear)) := by
  rcases exec_cases i s with ⟨v, e⟩ | e | e | ⟨hp, ⟨k, d, -, e⟩ | ⟨d, -, e⟩ | ⟨hi, e⟩ | ⟨hi, e⟩⟩ <;>
    obtain rfl := Host.Outcome.next.inj (e.symm.trans h)
  · exact .inl ⟨rfl, ⟨rfl, rfl, rfl⟩, ⟨rfl, fun _ _ => rfl⟩⟩
  · exact .inl ⟨rfl, ⟨rfl, rfl, rfl⟩, ⟨rfl, fun _ _ => rfl⟩⟩
  · exact .inl ⟨rfl, ⟨rfl, rfl, rfl⟩, ⟨rfl, fun _ _ => rfl⟩⟩
  · exact .inl ⟨rfl, ⟨rfl, rfl, rfl⟩, ⟨rfl, fun j _ => outByte_storeIn k.isLt d j⟩⟩
  · exact .inl ⟨rfl, ⟨rfl, rfl, rfl⟩, ⟨rfl, fun _ _ => rfl⟩⟩
  · exact .inr ⟨hp, .inl ⟨hi, rfl⟩⟩
  · exact .inr ⟨hp, .inr ⟨hi, rfl⟩⟩

/-- The engine's turn keeps PHASE, the flags and the result side while IDLE, and completes while BUSY. -/
theorem step_engineTurn_cases (h : step s = .next t) (he : EngineTurn s rest) :
    (s.phase = .idle ∧ SameControl s t) ∨ (s.phase = .busy ∧ t = (s.sched rest).complete) := by
  cases hp : s.phase with
  | idle =>
    obtain rfl := eq_of_step h (step_engineTurn_idle hp he)
    exact .inl ⟨rfl, sameControl_sched⟩
  | busy => exact .inr ⟨rfl, eq_of_step h (step_engineTurn hp he)⟩

/-- Every step keeps PHASE, the flags and the result side but four: an accepted DECODE, a CLEAR while IDLE, a completion
and the reset event. -/
theorem step_control_cases (h : step s = .next t) :
    SameControl s t ∨ ∃ rest,
      (s.phase = .idle ∧ s.schedule = .host 0x38001 :: rest ∧ t = (s.sched rest).accept) ∨
      (s.phase = .idle ∧ s.schedule = .host 0x38002 :: rest ∧ t = (s.sched rest).clear) ∨
      (s.phase = .busy ∧ EngineTurn s rest ∧ t = (s.sched rest).complete) ∨
      (s.schedule = .reset :: rest ∧ t = (s.sched rest).resetEvent) := by
  have engine {rest} (he : EngineTurn s rest) :
      SameControl s t ∨ (s.phase = .busy ∧ EngineTurn s rest ∧ t = (s.sched rest).complete) :=
    (step_engineTurn_cases h he).imp And.right fun ⟨hp, ht⟩ => ⟨hp, he, ht⟩
  rcases step_cases h with ⟨w, rest, hs, hx⟩ | ⟨hs, -⟩ | ⟨rest, hs, -⟩ | ⟨rest, hs, ht⟩
  · rcases exec_control_cases hx with hk | ⟨hp, ⟨hi, ht⟩ | ⟨hi, ht⟩⟩
    · exact .inl (sameControl_sched.trans hk)
    · exact .inr ⟨rest, .inl ⟨hp, decode_eq_cmdDecode_iff.1 hi ▸ hs, ht⟩⟩
    · exact .inr ⟨rest, .inr (.inl ⟨hp, decode_eq_cmdClear_iff.1 hi ▸ hs, ht⟩)⟩
  · exact (engine (.inr ⟨hs, rfl⟩)).imp id fun hc => ⟨[], .inr (.inr (.inl hc))⟩
  · exact (engine (.inl hs)).imp id fun hc => ⟨rest, .inr (.inr (.inl hc))⟩
  · exact .inr ⟨rest, .inr (.inr (.inr ⟨hs, ht⟩))⟩

/-! ### PHASE (10_state.md R15) -/

theorem step_decodeWord_phase (h : step s = .next t) (hs : s.schedule = .host 0x38001 :: rest) : t.phase = .busy := by
  cases hp : s.phase with
  | idle => exact eq_of_step h (step_decodeWord_idle hp hs) ▸ rfl
  | busy => exact eq_of_step h (step_decodeWord_busy hp hs) ▸ hp

theorem step_engineTurn_phase (h : step s = .next t) (he : EngineTurn s rest) : t.phase = .idle := by
  rcases step_engineTurn_cases h he with ⟨hp, hk⟩ | ⟨-, rfl⟩
  · exact hk.phase.trans hp
  · exact (complete_frame _).1

/-- Settles O43: of the four steps of `step_control_cases`, CLEAR keeps PHASE, so that IDLE is left by an accept only and
BUSY by a completion or a reset only. -/
theorem phaseChangesOnlyByAcceptCompletionReset : Obligations.PhaseChangesOnlyByAcceptCompletionReset := by
  refine ⟨rfl, fun s t h => ⟨fun hs ht => ?leavesIdle, fun hs ht => ?leavesBusy, fun _ => step_decodeWord_phase h, ?_⟩⟩
  case leavesIdle =>
    rcases step_control_cases h with hk | ⟨rest, ⟨-, hd, -⟩ | ⟨-, -, rfl⟩ | ⟨hb, -, -⟩ | ⟨-, rfl⟩⟩
    · cases ht.symm.trans (hk.phase.trans hs)
    · exact ⟨rest, hd⟩
    · cases ht.symm.trans hs
    · cases hs.symm.trans hb
    · cases ht
  case leavesBusy =>
    rcases step_control_cases h with hk | ⟨rest, ⟨hi, -, -⟩ | ⟨hi, -, -⟩ | ⟨-, he, -⟩ | ⟨hr, -⟩⟩
    · cases ht.symm.trans (hk.phase.trans hs)
    · cases hs.symm.trans hi
    · cases hs.symm.trans hi
    · exact ⟨rest, .inl he⟩
    · exact ⟨rest, .inr hr⟩
  · rintro rest (he | hr)
    · exact step_engineTurn_phase h he
    · exact eq_of_step h (step_reset hr) ▸ rfl

/-! ### DONE (10_state.md R21) -/

/-- Settles O44: of the four steps of `step_control_cases`, the completion sets it and the other three clear it. -/
theorem doneIsWrittenOnlyByItsWriters : Obligations.DoneIsWrittenOnlyByItsWriters := by
  refine fun s t h => ⟨fun hs ht => ?set, fun hs ht => ?cleared, fun rest hb he => ?_, ?_⟩
  case set =>
    rcases step_control_cases h with hk | ⟨rest, ⟨-, -, rfl⟩ | ⟨-, -, rfl⟩ | ⟨hb, he, -⟩ | ⟨-, rfl⟩⟩
    · cases ht.symm.trans (hk.flags.done.trans hs)
    · cases ht
    · cases ht
    · exact ⟨hb, rest, he⟩
    · cases ht
  case cleared =>
    rcases step_control_cases h with hk | ⟨rest, ⟨hi, hd, -⟩ | ⟨hi, hc, -⟩ | ⟨-, -, rfl⟩ | ⟨hr, -⟩⟩
    · cases ht.symm.trans (hk.flags.done.trans hs)
    · exact ⟨rest, .inl ⟨hi, .inl hd⟩⟩
    · exact ⟨rest, .inl ⟨hi, .inr hc⟩⟩
    · cases ht
    · exact ⟨rest, .inr hr⟩
  · exact eq_of_step h (step_engineTurn hb he) ▸ rfl
  · rintro rest (⟨hi, hd | hc⟩ | hr)
    · exact eq_of_step h (step_decodeWord_idle hi hd) ▸ rfl
    · exact eq_of_step h (step_clearWord_idle hi hc) ▸ rfl
    · exact eq_of_step h (step_reset hr) ▸ rfl

/-! ### The reset values (10_state.md R30) -/

theorem read_resultsZero : ∀ off, Results.zero.read off = 0x00 := by decide

/-- Settles O30: the buffers by memory that lists nothing, the result window offset by offset. -/
theorem machineStartsAtResetValues : Obligations.MachineStartsAtResetValues := by
  refine ⟨rfl, fun i hi => ?_, rfl, rfl, read_resultsZero, fun i hi => outByte_of_nil rfl hi⟩
  rw [State.written, inByte_of_nil rfl hi]
  rfl

end Sys2Proof.Machine
end

section
/-! The completion's read footprint (20_memory.md R40): which bytes decide the answer of `decode`, and that the answer
decides all that a completion shows. -/

namespace Sys2Proof.Machine

variable {bytes bytes' : Nat → Byte} {n : Byte} {s s' : State}

/-! ### The pure `decode` -/

/-- How many bytes, from byte 0 on, `decode` may depend on (20_memory.md R40): none of a short frame, the two header
bytes where a length check fails, the whole frame else. -/
def decodeFootprint (bytes : Nat → Byte) (n : Byte) : Nat :=
  if n.toNat < 6 then 0
  else if (bytes 1 &&& 0x7F).toNat = n.toNat - 6 ∧ (bytes 1 &&& 0x7F).toNat ≤ 125 then n.toNat
  else 2

/-- The length field as a number is the masked byte: the bit dropped in going to 7 bits is 0. -/
theorem payloadLenField_toNat_eq_and (b : Byte) : (payloadLenField b).toNat = (b &&& 0x7F).toNat := by
  have hand : (b &&& 0x7F).toNat = b.toNat % 128 := by
    rw [BitVec.toNat_and]
    exact Nat.and_two_pow_sub_one_eq_mod b.toNat 7
  rw [payloadLenField_toNat, hand]

/-- Where a length check fails, byte 1 decides which error `decode` answers. -/
theorem decodeFrame_congr_of_badLength (h1 : bytes' 1 = bytes 1)
    (hbad : ¬ ((payloadLenField (bytes 1)).toNat = n.toNat - 6 ∧ (payloadLenField (bytes 1)).toNat ≤ 125)) :
    decodeFrame bytes' n = decodeFrame bytes n := by
  simp only [decodeFrame, h1, marks_iff, Config.hdrBytes]
  split_ifs with hshort hmark hlen
  · rfl
  · rfl
  · rfl
  · exact absurd ⟨not_not.1 hlen, not_lt.1 hmark⟩ hbad

/-- `decode` depends on its footprint only. -/
theorem decodeFrame_congr_footprint (h : ∀ j < decodeFootprint bytes n, bytes' j = bytes j) :
    decodeFrame bytes' n = decodeFrame bytes n := by
  unfold decodeFootprint at h
  split_ifs at h with hshort hgood
  · simp only [decodeFrame, Config.hdrBytes, if_pos hshort]
  · exact decodeFrame_congr h
  · rw [← payloadLenField_toNat_eq_and] at hgood
    exact decodeFrame_congr_of_badLength (h 1 (by decide)) hgood

/-! ### The completion -/

/-- `STATUS` after a completion is VALID and ERR beside a set DONE and an IDLE PHASE. -/
theorem status_complete : s.complete.status = statusWord .idle true s.complete.valid s.complete.err := by
  obtain ⟨hphase, hdone, -⟩ := complete_frame s
  rw [State.status, hphase, hdone]

/-- Completions with the same answer of `decode` show the same `STATUS` and result side, whatever the states held. -/
theorem complete_congr (h : s'.frameResult = s.frameResult) :
    s'.complete.status = s.complete.status ∧ SameResults s.complete s'.complete := by
  rw [status_complete, status_complete]
  cases hr : s.frameResult with
  | ok f =>
    obtain ⟨hv, he, hregs, hout⟩ := complete_ok hr
    obtain ⟨hv', he', hregs', hout'⟩ := complete_ok (h.trans hr)
    exact ⟨by rw [hv, he, hv', he'], hregs'.trans hregs.symm, fun i hi => (hout' i hi).trans (hout i hi).symm⟩
  | err e =>
    obtain ⟨hv, he, hregs, hout⟩ := complete_err hr
    obtain ⟨hv', he', hregs', hout'⟩ := complete_err (h.trans hr)
    exact ⟨by rw [hv, he, hv', he'], hregs'.trans hregs.symm, fun i hi => (hout' i hi).trans (hout i hi).symm⟩

/-- Settles O41: `decode` depends on its footprint only, and the completion shows its answer. -/
theorem completionReadsOnlyItsFootprint : Obligations.CompletionReadsOnlyItsFootprint := by
  intro s s' t t' rest rest' hb hb' he he' hlen hfoot h h'
  obtain rfl := eq_of_step h (step_engineTurn hb he)
  obtain rfl := eq_of_step h' (step_engineTurn hb' he')
  have hsame : s'.frameResult = s.frameResult := by
    rw [State.frameResult, State.frameResult, hlen]
    exact decodeFrame_congr_footprint hfoot
  exact complete_congr hsame

end Sys2Proof.Machine
end

section
/-! The decode operation (40_decode.md R66, R80): which header bits decide nothing, and the accept of a DECODE. -/

namespace Sys2Proof.Machine

variable {bytes bytes' : Nat → Byte} {n : Byte}

/-! ### The header bits that decide nothing (40_decode.md R80) -/

theorem payloadLenField_congr {b b' : Byte} (h : b' &&& 0x7F = b &&& 0x7F) : payloadLenField b' = payloadLenField b :=
  congrArg (BitVec.setWidth 7) h

/-- Of the bytes, the payload-length field alone decides between the three errors and a frame. -/
theorem decodeFrame_same_outcome (h : payloadLenField (bytes' 1) = payloadLenField (bytes 1)) :
    (∃ e, decodeFrame bytes n = .err e ∧ decodeFrame bytes' n = .err e) ∨
    (decodeFrame bytes n = .ok (frameOf bytes n) ∧ decodeFrame bytes' n = .ok (frameOf bytes' n)) := by
  simp only [decodeFrame, h]
  split_ifs
  · exact .inl ⟨_, rfl, rfl⟩
  · exact .inl ⟨_, rfl, rfl⟩
  · exact .inl ⟨_, rfl, rfl⟩
  · exact .inr ⟨rfl, rfl⟩

theorem decodeFrame_err_congr (h : payloadLenField (bytes' 1) = payloadLenField (bytes 1)) (e : FrameError) :
    decodeFrame bytes n = .err e ↔ decodeFrame bytes' n = .err e := by
  rcases decodeFrame_same_outcome (n := n) h with ⟨e', he, he'⟩ | ⟨hok, hok'⟩
  · rw [he, he']
  · rw [hok, hok']
    exact iff_of_false nofun nofun

section
variable (h : ∀ j, 2 ≤ j → bytes' j = bytes j)
include h

theorem frameOf_keyAt_congr (k : Nat) : (frameOf bytes' n).fields.keyAt k = (frameOf bytes n).fields.keyAt k :=
  calc
    (headerFields bytes' n).keyAt k = bytes' (2 + k % 4) := keyAt_headerFields k
    _ = bytes (2 + k % 4) := h _ (Nat.le_add_right 2 _)
    _ = (headerFields bytes n).keyAt k := (keyAt_headerFields k).symm

theorem payloadByte_congr (i : Nat) : bytes' (Config.hdrBytes + i) = bytes (Config.hdrBytes + i) :=
  h _ (Nat.le_add_right_of_le (by decide))

theorem frameOf_masked_congr : (frameOf bytes' n).masked = (frameOf bytes n).masked :=
  List.map_congr_left fun i _ => payloadByte_congr h i

/-- A payload byte and its key byte both lie past the two header bytes. -/
theorem frameOf_unmasked_congr : (frameOf bytes' n).unmasked = (frameOf bytes n).unmasked :=
  List.map_congr_left fun i _ => congrArg₂ (· ^^^ ·) (payloadByte_congr h i) (frameOf_keyAt_congr h i)

theorem frameOf_chars_congr : (frameOf bytes' n).chars = (frameOf bytes n).chars :=
  congrArg (List.map codePoint) (frameOf_unmasked_congr h)

end

/-- Settles O36: the outcome depends on the payload-length field only, and the payload and the key on the bytes from 2
on. -/
theorem headerFlagsDecideNothing : Obligations.HeaderFlagsDecideNothing := by
  intro bytes bytes' n htail hfield
  have hlen : payloadLenField (bytes' 1) = payloadLenField (bytes 1) := payloadLenField_congr hfield
  refine ⟨decodeFrame_err_congr hlen, fun f f' hf hf' => ?_⟩
  obtain ⟨-, -, -, rfl⟩ := decodeFrame_ok_inv hf
  obtain ⟨-, -, -, rfl⟩ := decodeFrame_ok_inv hf'
  exact ⟨frameOf_masked_congr htail, frameOf_unmasked_congr htail, frameOf_chars_congr htail, hlen,
    frameOf_keyAt_congr htail⟩

/-! ### The accept (40_decode.md R66) -/

/-- An accepted DECODE shows BUSY and nothing else in `STATUS`. -/
theorem status_accept (s : State) : s.accept.status = 0x01 := by
  obtain ⟨hphase, hdone, hvalid, herr, -⟩ := accept_spec s
  obtain ⟨-, hbusy, -⟩ := statusWord_cases s.accept.phase s.accept.done s.accept.valid s.accept.err
  exact hbusy.2 ⟨hphase, hdone, hvalid, herr⟩

theorem exec_cmdDecode_busy {s : State} (h : s.phase = .busy) : exec .cmdDecode s = .next s :=
  congrArg Host.Outcome.next (whenIdle_busy h)

/-- Settles O23: while IDLE the next state is `accept`'s, while BUSY the state itself. -/
theorem decodeIsAcceptedWhileIdle : Obligations.DecodeIsAcceptedWhileIdle := by
  refine fun s => ⟨fun hidle => ⟨s.accept, exec_cmdDecode_idle hidle, ?_⟩, exec_cmdDecode_busy⟩
  obtain ⟨hphase, hdone, hvalid, herr, hlen, hresults, hmem, hread, hdraws, hsched⟩ := accept_spec s
  exact ⟨hphase, hdone, hvalid, herr, status_accept s, hlen, hresults, fun a => by rw [hmem], hread, hdraws, hsched⟩

end Sys2Proof.Machine
end

section
/-! The bus operations (42_bus_ops.md R92 to R105): what each read returns, what each write and command leaves behind, and
how a write to CMD is told apart. -/

namespace Sys2Proof.Machine

variable {s : State}

/-! ### Reads (R92 to R98): a read answers `respond` or `respondDraw`, and neither touches the block -/

theorem sameBlock_respond (v : Byte) : SameBlock s (s.respond v) := ⟨rfl, rfl, ⟨rfl, rfl, rfl⟩, rfl, fun _ => rfl⟩

theorem sameBlock_respondDraw : SameBlock s s.respondDraw := ⟨rfl, rfl, ⟨rfl, rfl, rfl⟩, rfl, fun _ => rfl⟩

theorem returned_respond (v : Byte) : Returned s (s.respond v) v := ⟨rfl, rfl, rfl⟩

theorem returnedDraw_respondDraw : ReturnedDraw s s.respondDraw := ⟨rfl, rfl, rfl⟩

theorem written_eq_false_iff {i : Nat} : s.written i = false ↔ s.inByte i = none :=
  Option.isSome_eq_false_iff.trans Option.isNone_iff_eq_none

/-- Settles O12: RD_INBUF answers a byte or a draw as `inByte` has a value or none. -/
theorem readInBufReturnsWrittenByteOrDraw : Obligations.ReadInBufReturnsWrittenByteOrDraw := by
  intro s i d
  cases hbyte : s.inByte i.toNat with
  | some v =>
    refine ⟨_, exec_rdInbuf_written hbyte, sameBlock_respond v, fun w hw => ?_, fun hw => ?_⟩
    · obtain rfl := Option.some.inj hw
      exact returned_respond v
    · cases hbyte.symm.trans (written_eq_false_iff.1 hw)
  | none => exact ⟨_, exec_rdInbuf_unwritten hbyte, sameBlock_respondDraw, nofun, fun _ => returnedDraw_respondDraw⟩

/-- Settles O13, by PHASE. -/
theorem readOutBufReturnsByteOrDraw : Obligations.ReadOutBufReturnsByteOrDraw := by
  intro s i d
  cases hp : s.phase with
  | idle => exact ⟨_, exec_rdOutbuf_idle hp, sameBlock_respond _, fun _ => returned_respond _, nofun⟩
  | busy => exact ⟨_, exec_rdOutbuf_busy hp, sameBlock_respondDraw, nofun, fun _ => returnedDraw_respondDraw⟩

/-- Settles O14: both answer `respond 0x00`. -/
theorem readCmdAndReservedReturnZero : Obligations.ReadCmdAndReservedReturnZero := fun _ _ _ =>
  ⟨⟨_, rfl, sameBlock_respond _, returned_respond _⟩, _, rfl, sameBlock_respond _, returned_respond _⟩

/-- Settles O15: RD_FRAMELEN answers `respond` of the register, without a look at PHASE. -/
theorem readFrameLenReturnsRegister : Obligations.ReadFrameLenReturnsRegister := fun _ _ =>
  ⟨_, rfl, sameBlock_respond _, returned_respond _⟩

/-- Settles O16: the byte returned is `status`, whose bits `statusWord_toNat` adds up. -/
theorem readStatusReturnsItsFields : Obligations.ReadStatusReturnsItsFields := fun s _ =>
  ⟨_, s.status, rfl, sameBlock_respond _, returned_respond _, statusWord_toNat s.phase s.done s.valid s.err⟩

/-- The twelve registers of the result window in the order of their offsets, each zero-extended (10_state.md R24). -/
def Results.window (r : Results) : List Byte :=
  [if r.fin then 1 else 0, if r.rsv1 then 1 else 0, if r.rsv2 then 1 else 0, if r.rsv3 then 1 else 0,
    r.opcode.setWidth 8, if r.mask then 1 else 0, r.payloadLen.setWidth 8, r.frameLen, r.key0, r.key1, r.key2, r.key3]

theorem zextBool_eq_ite (b : Bool) : zextBool b = if b then 1 else 0 := by cases b <;> rfl

theorem window_getElem? (r : Results) {off : BitVec 4} (h : off.toNat < 12) :
    r.window[off.toNat]? = some (r.read off) := by
  unfold Results.read
  generalize off.toNat = k at h ⊢
  interval_cases k <;> simp [Results.window, zextBool_eq_ite]

/-- A register's offset is below 0xC, and there the read gives the register. -/
theorem read_of_window {r : Results} {off : BitVec 4} {v : Byte} (h : r.window[off.toNat]? = some v) :
    off.toNat < 12 ∧ r.read off = v := by
  obtain ⟨hoff, -⟩ := List.getElem?_eq_some_iff.1 h
  exact ⟨hoff, Option.some.inj ((window_getElem? r hoff).symm.trans h)⟩

/-- Settles O17: the unused offsets first, then by PHASE. -/
theorem readResultReturnsRegisterOrDraw : Obligations.ReadResultReturnsRegisterOrDraw := by
  intro s off d
  by_cases hoff : off.toNat < 12
  · cases hp : s.phase with
    | idle =>
      refine ⟨_, exec_rdResult_idle hoff hp, sameBlock_respond _, fun h => absurd hoff h.not_gt, nofun, fun _ v hv => ?_⟩
      obtain ⟨-, rfl⟩ := read_of_window hv
      exact returned_respond _
    | busy =>
      exact ⟨_, exec_rdResult_busy hoff hp, sameBlock_respondDraw, fun h => absurd hoff h.not_gt,
        fun _ _ => returnedDraw_respondDraw, nofun⟩
  · exact ⟨_, exec_rdResult_unused (not_lt.1 hoff), sameBlock_respond _, fun _ => returned_respond _,
      fun h => absurd h hoff, fun _ _ hv => absurd (read_of_window hv).1 hoff⟩

/-! ### Writes (R99, R100) -/

/-- Listing a byte a second time changes nothing, in a memory of any form. -/
theorem Memory.put_put_same (m : Memory) (a : Nat) (v : Byte) : (m.put a v).put a v = m.put a v := by
  induction m with
  | nil => simp [Memory.put]
  | cons c m ih =>
    obtain ⟨k, x⟩ := c
    rcases lt_trichotomy a k with h | rfl | h
    · simp [Memory.put, h]
    · simp [Memory.put]
    · simp [Memory.put, h.not_gt, h.ne', ih]

theorem Memory.write_write_same (m : Memory) (a : Nat) (v : Byte) : (m.write a v).write a v = m.write a v := by
  unfold Memory.write
  split
  · simp [Memory.erase]
  · exact Memory.put_put_same m a v

theorem storeIn_storeIn_same (s : State) (i : Nat) (d : Byte) : (s.storeIn i d).storeIn i d = s.storeIn i d :=
  congrArg (fun m => { s with mem := m }) (Memory.write_write_same s.mem i d)

theorem exec_wrInbuf_busy {i : BitVec 8} {d : Byte} (h : s.phase = .busy) : exec (.wrInbuf i d) s = .next s :=
  congrArg Host.Outcome.next (whenIdle_busy h)

theorem exec_wrFramelen_busy {d : Byte} (h : s.phase = .busy) : exec (.wrFramelen d) s = .next s :=
  congrArg Host.Outcome.next (whenIdle_busy h)

/-- Settles O20: while IDLE the next state is `storeIn`'s, still IDLE, and storing again gives it back. -/
theorem writeInBufStoresWhileIdle : Obligations.WriteInBufStoresWhileIdle := by
  refine fun s i d => ⟨fun hidle => ⟨s.storeIn i.toNat d, exec_wrInbuf_idle hidle, ?_⟩, exec_wrInbuf_busy⟩
  have hstored : (s.storeIn i.toNat d).inByte i.toNat = some d := inByte_storeIn_same _ _
  have hagain : exec (.wrInbuf i d) (s.storeIn i.toNat d) = .next (s.storeIn i.toNat d) := by
    rw [exec_wrInbuf_idle (s := s.storeIn i.toNat d) hidle, storeIn_storeIn_same]
  exact ⟨hstored, by rw [State.written, hstored]; rfl, fun a ha => Memory.read_write_other ha, rfl, rfl,
    ⟨rfl, rfl, rfl⟩, rfl, ⟨rfl, rfl, rfl⟩, hagain⟩

/-- Settles O21: while IDLE the next state is `setFrameLen`'s, while BUSY the state itself. -/
theorem writeFrameLenStoresWhileIdle : Obligations.WriteFrameLenStoresWhileIdle := fun s d =>
  ⟨fun hidle => ⟨s.setFrameLen d, exec_wrFramelen_idle hidle, rfl, fun _ => rfl, rfl, ⟨rfl, rfl, rfl⟩, rfl,
    ⟨rfl, rfl, rfl⟩⟩, exec_wrFramelen_busy⟩

/-! ### Commands (R101 to R105) -/

theorem exec_cmdNop (s : State) : exec .cmdNop s = .next s := rfl

theorem exec_cmdRsvd (d : Byte) (s : State) : exec (.cmdRsvd d) s = .next s := rfl

theorem exec_wrIgnored (a : Addr) (d : Byte) (s : State) : exec (.wrIgnored a d) s = .next s := rfl

/-- Settles O22: the equations of the three transactions. -/
theorem nopReservedAndIgnoredWritesDoNothing : Obligations.NopReservedAndIgnoredWritesDoNothing := fun s a d =>
  ⟨exec_cmdNop s, exec_cmdRsvd d s, exec_wrIgnored a d s⟩

theorem exec_cmdClear_busy (h : s.phase = .busy) : exec .cmdClear s = .next s :=
  congrArg Host.Outcome.next (whenIdle_busy h)

theorem status_clear (h : s.phase = .idle) : s.clear.status = 0x00 :=
  (statusWord_cases s.phase false false 0b00).1.2 ⟨h, rfl, rfl, rfl⟩

/-- Settles O24: the next state is `clear`'s. -/
theorem clearBlanksTheResultSide : Obligations.ClearBlanksTheResultSide := by
  refine fun s hidle => ⟨s.clear, exec_cmdClear_idle hidle, ?_⟩
  obtain ⟨hdone, hvalid, herr, hregs, hout, hin, hphase, hlen, hread, hdraws, hsched⟩ := clear_spec s
  exact ⟨hphase.trans hidle, hdone, hvalid, herr, status_clear hidle, ⟨hregs, hout⟩, ⟨hlen, hin⟩,
    hread, hdraws, hsched⟩

/-- A write to CMD decodes by its code (30_encoding.md R59). -/
theorem decode_writeWord_cmd (d : Byte) :
    decode (writeWord 0x180 d) =
      if d = 0x00 then .cmdNop else if d = 0x01 then .cmdDecode else if d = 0x02 then .cmdClear else .cmdRsvd d :=
  (decode_append 0x380 d).trans (by simp)

/-- Settles O25: the decoder tells the codes apart; while BUSY each of the four transactions does nothing. -/
theorem commandWriteDispatches : Obligations.CommandWriteDispatches := by
  intro s d
  rw [decode_writeWord_cmd]
  refine ⟨fun hbusy => ?_, fun _ => ?_⟩
  · split_ifs
    · exact exec_cmdNop s
    · exact exec_cmdDecode_busy hbusy
    · exact exec_cmdClear_busy hbusy
    · exact exec_cmdRsvd d s
  · simp only [apply_ite (exec · s)]

end Sys2Proof.Machine
end

section
/-! The three errors (60_exceptions.md R106 to R111): which one `decode` answers, and the error entry of a completion. -/

namespace Sys2Proof.Machine

variable {bytes : Nat → Byte} {n : Byte} {s : State}

/-! ### Which error `decode` answers (R107 to R110) -/

theorem decodeFrame_short (h : n.toNat < 6) : decodeFrame bytes n = .err .malformedInput := if_pos h

/-- A marked length field comes before a wrong length: nothing is asked of the length but that the header is there. -/
theorem decodeFrame_marked (h6 : 6 ≤ n.toNat) (h : 125 < (payloadLenField (bytes 1)).toNat) :
    decodeFrame bytes n = .err .unsupportedLength :=
  (if_neg h6.not_gt).trans (if_pos ((marks_iff _).2 h))

theorem decodeFrame_inconsistent (h6 : 6 ≤ n.toNat) (hshort : (payloadLenField (bytes 1)).toNat ≤ 125)
    (h : (payloadLenField (bytes 1)).toNat ≠ n.toNat - 6) : decodeFrame bytes n = .err .inconsistentLength :=
  (if_neg h6.not_gt).trans ((if_neg (mt (marks_iff _).1 hshort.not_gt)).trans (if_pos h))

/-! ### The error entry (R111) -/

/-- A completion whose `decode` answers an error reports it by its code in `STATUS`, blanks the result side and keeps the
input side. -/
theorem complete_reportedError {e : FrameError} (h : s.frameResult = .err e) (rest : List Move) :
    ReportedError s (s.sched rest).complete (statusWord .idle true false e.code) := by
  obtain ⟨hvalid, herr, hregs, hout⟩ := complete_err (s := s.sched rest) h
  obtain ⟨-, -, hlen, hin, -⟩ := complete_frame (s.sched rest)
  exact ⟨by rw [status_complete, hvalid, herr], ⟨hregs, hout⟩, ⟨hlen, hin⟩⟩

/-- Settles O40: the step is the completion; each cause gives its error, and the error's code its `STATUS`. -/
theorem completionReportsTheFirstError : Obligations.CompletionReportsTheFirstError := by
  intro s rest hbusy hturn
  obtain ⟨hphase, hdone, -, -, hread, -, hsched⟩ := complete_frame (s.sched rest)
  refine ⟨_, step_engineTurn hbusy hturn, hphase, hdone, hsched, hread, ?_⟩
  rw [← payloadLenField_toNat_eq_and]
  refine ⟨fun hshort => ?malformed, fun h6 hmark => ?unsupported, fun h6 hle hne => ?inconsistent⟩
  case malformed => exact complete_reportedError (decodeFrame_short hshort) rest
  case unsupported =>
    have hmarked : 125 < (payloadLenField (s.engineByte 1)).toNat := by omega
    exact complete_reportedError (decodeFrame_marked h6 hmarked) rest
  case inconsistent => exact complete_reportedError (decodeFrame_inconsistent h6 hle hne) rest

end Sys2Proof.Machine
end

section
/-! Host writes while BUSY (70_reset_and_hazards.md R127, R128): which transaction a write word stands for, and that
none of them has an effect. -/

namespace Sys2Proof.Machine

/-! ### The write rows of the map (30_encoding.md R58) -/

/-- The bit that the IN_BUF row tests is the address's top bit. -/
theorem and_topBit_eq_zero_iff (a : Addr) : a &&& 0x100#9 = 0#9 ↔ a.toNat < 0x100 := by
  have hmask : a &&& 0x100#9 ≠ 0#9 ↔ a.getLsbD 8 = true := and_twoPow_ne_zero_iff a (i := 8) (by decide)
  have hbit : a.getLsbD 8 = decide (0x100 ≤ a.toNat) := BitVec.msb_eq_decide a
  rw [← not_iff_not, not_lt]
  exact hmask.trans (hbit ▸ decide_eq_true_iff)

/-- A row test of a write's upper ten bits, by a mask that keeps W, compares W and the address apart. -/
theorem writeBits_and_eq_iff (a m p : Addr) (b : BitVec 1) :
    (1#1 ++ a : BitVec (1 + 9)) &&& (1#1 ++ m : BitVec (1 + 9)) = b ++ p ↔ 1#1 = b ∧ a &&& m = p := by
  rw [BitVec.and_append, BitVec.and_self]
  exact append_eq_append_iff

/-- A write to any address but CMD decodes by its address: W is 1, so that it passes no read's row. CMD's own writes are
`decode_writeWord_cmd`'s. -/
theorem decode_writeWord_of_ne_cmd {a : Addr} (ha : a ≠ 0x180#9) (d : Byte) :
    decode (writeWord a d) =
      if a.toNat < 0x100 then .wrInbuf (a.setWidth 8) d
      else if a = 0x181#9 then .wrFramelen d
      else .wrIgnored a d := by
  have noReadRow (m p : Addr) : ¬ (1#1 ++ a : BitVec (1 + 9)) &&& (1#1 ++ m : BitVec (1 + 9)) = 0#1 ++ p :=
    fun h => absurd ((writeBits_and_eq_iff a m p 0#1).1 h).1 (by decide)
  have noReadAddr (p : Addr) : ¬ (1#1 ++ a : BitVec (1 + 9)) = 0#1 ++ p :=
    fun h => absurd (append_eq_append_iff.1 h).1 (by decide)
  have inBufRow : (1#1 ++ a : BitVec (1 + 9)) &&& 0x300#10 = 0x200#10 ↔ a.toNat < 0x100 :=
    (writeBits_and_eq_iff a 0x100 0 1#1).trans ((and_iff_right rfl).trans (and_topBit_eq_zero_iff a))
  have writeAddr (p : Addr) : (1#1 ++ a : BitVec (1 + 9)) = 1#1 ++ p ↔ a = p :=
    append_eq_append_iff.trans (and_iff_right rfl)
  have lowBits (k : Nat) (hk : k ≤ 9) : (1#1 ++ a : BitVec (1 + 9)).setWidth k = a.setWidth k := by
    rw [BitVec.setWidth_append, dif_pos hk]
  refine (decode_append (1#1 ++ a : BitVec (1 + 9)) d).trans <| (if_neg (noReadRow 0x100 0)).trans <|
    (if_neg (noReadRow 0x180 0x100)).trans <| (if_neg (noReadAddr 0x180)).trans <| (if_neg (noReadAddr 0x181)).trans <|
    (if_neg (noReadAddr 0x182)).trans <| (if_neg (noReadRow 0x1F0 0x190)).trans <| (if_neg (noReadRow 0 0)).trans ?_
  rw [lowBits 8 (by decide), lowBits 9 le_rfl, BitVec.setWidth_eq]
  exact if_congr inBufRow rfl ((if_neg (mt (writeAddr 0x180).1 ha)).trans (if_congr (writeAddr 0x181) rfl rfl))

/-! ### The drop (R127, R128) -/

/-- While BUSY no write has an effect, whatever its address: input writes and commands are dropped, and the other writes
are ignored in every phase. -/
theorem exec_writeWord_busy {s : State} (hbusy : s.phase = .busy) (a : Addr) (d : Byte) :
    exec (decode (writeWord a d)) s = .next s := by
  by_cases hcmd : a = 0x180#9
  · subst hcmd
    exact (commandWriteDispatches s d).1 hbusy
  · rw [decode_writeWord_of_ne_cmd hcmd]
    split_ifs
    · exact exec_wrInbuf_busy hbusy
    · exact exec_wrFramelen_busy hbusy
    · exact exec_wrIgnored a d s

/-- Settles O26: no write at all has an effect while BUSY, so the three kinds of address need not be told apart. -/
theorem writesWhileBusyAreDropped : Obligations.WritesWhileBusyAreDropped := fun _ a d hbusy _ =>
  exec_writeWord_busy hbusy a d

end Sys2Proof.Machine
end

section
/-! Transaction words by the number of their upper ten bits (30_encoding.md R57, R58, R64): the decoder by ranges, which
is the address map, and that decoding and encoding undo each other. -/

namespace Sys2Proof

open Machine (decode_writeWord_cmd decode_writeWord_of_ne_cmd)

variable {n m : Nat}

/-! ### Upper bits and lower bits -/

theorem toNat_append_eq_add (x : BitVec n) (y : BitVec m) : (x ++ y).toNat = x.toNat * 2 ^ m + y.toNat := by
  rw [BitVec.toNat_append, ← Nat.shiftLeft_add_eq_or_of_lt y.isLt, Nat.shiftLeft_eq]

/-- A row test by a mask of leading ones asks for the leading bits. -/
theorem and_leadingBits_eq_iff (x : BitVec (n + m)) (p : BitVec n) :
    x &&& (BitVec.allOnes n ++ 0#m) = p ++ 0#m ↔ x.toNat / 2 ^ m = p.toNat := by
  obtain ⟨hi, lo, rfl⟩ : ∃ (hi : BitVec n) (lo : BitVec m), x = hi ++ lo :=
    ⟨_, _, BitVec.extractLsb'_append_extractLsb'.symm⟩
  rw [BitVec.and_append, BitVec.and_allOnes, BitVec.and_zero, append_eq_append_iff, and_iff_left rfl,
    toNat_append_eq_add, Nat.mul_comm, Nat.mul_add_div (Nat.two_pow_pos m), Nat.div_eq_of_lt lo.isLt, Nat.add_zero,
    BitVec.toNat_inj]

/-- Leading bits followed by the rest give the whole back. -/
theorem append_setWidth_of_leadingBits {x : BitVec (n + m)} {p : BitVec n} (h : x.toNat / 2 ^ m = p.toNat) :
    p ++ x.setWidth m = x := by
  refine BitVec.eq_of_toNat_eq ?_
  rw [toNat_append_eq_add, ← h, BitVec.toNat_setWidth, Nat.div_add_mod']

/-! ### The decoder by ranges -/

/-- The decoder by the number of the upper ten bits: W · 0x200 + ADDR. -/
theorem decode_append_ranges (x : BitVec 10) (d : Byte) :
    decode (x ++ d : BitVec (10 + 8)) =
      if x.toNat < 0x100 then .rdInbuf (x.setWidth 8) d
      else if 0x100 ≤ x.toNat ∧ x.toNat < 0x180 then .rdOutbuf (x.setWidth 7) d
      else if x.toNat = 0x180 then .rdCmd d
      else if x.toNat = 0x181 then .rdFramelen d
      else if x.toNat = 0x182 then .rdStatus d
      else if 0x190 ≤ x.toNat ∧ x.toNat < 0x1A0 then .rdResult (x.setWidth 4) d
      else if x.toNat < 0x200 then .rdRsvd (x.setWidth 9) d
      else if 0x200 ≤ x.toNat ∧ x.toNat < 0x300 then .wrInbuf (x.setWidth 8) d
      else if x.toNat = 0x380 then
        if d = 0#8 then .cmdNop else if d = 1#8 then .cmdDecode else if d = 2#8 then .cmdClear else .cmdRsvd d
      else if x.toNat = 0x381 then .wrFramelen d
      else .wrIgnored (x.setWidth 9) d := by
  have row1 : x &&& 0x300#10 = 0#10 ↔ x.toNat < 0x100 :=
    (and_leadingBits_eq_iff (m := 8) x 0#2).trans (by simp)
  have row2 : x &&& 0x380#10 = 0x100#10 ↔ 0x100 ≤ x.toNat ∧ x.toNat < 0x180 :=
    (and_leadingBits_eq_iff (m := 7) x 2#3).trans (by simp; omega)
  have row6 : x &&& 0x3F0#10 = 0x190#10 ↔ 0x190 ≤ x.toNat ∧ x.toNat < 0x1A0 :=
    (and_leadingBits_eq_iff (m := 4) x 0x19#6).trans (by simp; omega)
  have row7 : x &&& 0x200#10 = 0#10 ↔ x.toNat < 0x200 :=
    (and_leadingBits_eq_iff (m := 9) x 0#1).trans (by simp)
  have row8 : x &&& 0x300#10 = 0x200#10 ↔ 0x200 ≤ x.toNat ∧ x.toNat < 0x300 :=
    (and_leadingBits_eq_iff (m := 8) x 2#2).trans (by simp; omega)
  have whole (p : BitVec 10) : x = p ↔ x.toNat = p.toNat := BitVec.toNat_inj.symm
  rw [decode_append, if_congr row1 rfl rfl]
  simp only [row2, row6, row7, row8, whole]
  rfl


/-! ### Decoding an encoded transaction -/

theorem reservedRead_iff (a : Addr) :
    reservedRead a = true ↔ (0x183 ≤ a.toNat ∧ a.toNat ≤ 0x18F) ∨ 0x1A0 ≤ a.toNat := by
  simp [reservedRead]

theorem ignoredWrite_iff (a : Addr) :
    ignoredWrite a = true ↔ (0x100 ≤ a.toNat ∧ a.toNat ≤ 0x17F) ∨ 0x182 ≤ a.toNat := by
  simp [ignoredWrite]

theorem reservedCommand_iff (d : Byte) : reservedCommand d = true ↔ 3 ≤ d.toNat := decide_eq_true_iff

/-- The number of the upper ten bits of a row with `p` before its operand. -/
theorem toNat_fixedBits_append (p : BitVec n) (i : BitVec m) {k : Nat} (hk : p.toNat * 2 ^ m = k) :
    (p ++ i).toNat = k + i.toNat := by rw [toNat_append_eq_add, hk]

/-- Settles O1: the number of a row's fixed bits and operand lies in that row's range and in no earlier one, and the
operand is read back as the low bits. -/
theorem encodeThenDecodeIsIdentity : Obligations.EncodeThenDecodeIsIdentity := by
  intro i hwf
  cases i with
  | rdInbuf i d =>
    have hx := toNat_fixedBits_append 0b00#2 i (k := 0) rfl
    refine (decode_append_ranges (0b00#2 ++ i) d).trans ?_
    rw [if_pos (by omega), BitVec.setWidth_append_eq_right]
  | rdOutbuf i d =>
    have hx := toNat_fixedBits_append 0b010#3 i (k := 0x100) rfl
    refine (decode_append_ranges (0b010#3 ++ i) d).trans ?_
    rw [if_neg (by omega), if_pos (by omega), BitVec.setWidth_append_eq_right]
  | rdCmd d => exact decode_append_ranges 0x180 d
  | rdFramelen d => exact decode_append_ranges 0x181 d
  | rdStatus d => exact decode_append_ranges 0x182 d
  | rdResult off d =>
    have hx := toNat_fixedBits_append 0b011001#6 off (k := 0x190) rfl
    refine (decode_append_ranges (0b011001#6 ++ off) d).trans ?_
    iterate 5 rw [if_neg (by omega)]
    rw [if_pos (by omega), BitVec.setWidth_append_eq_right]
  | rdRsvd a d =>
    have ha := (reservedRead_iff a).1 hwf
    have hx := toNat_fixedBits_append 0b0#1 a (k := 0) rfl
    refine (decode_append_ranges (0b0#1 ++ a) d).trans ?_
    iterate 6 rw [if_neg (by omega)]
    rw [if_pos (by omega), BitVec.setWidth_append_eq_right]
  | wrInbuf i d =>
    have hx := toNat_fixedBits_append 0b10#2 i (k := 0x200) rfl
    refine (decode_append_ranges (0b10#2 ++ i) d).trans ?_
    iterate 7 rw [if_neg (by omega)]
    rw [if_pos (by omega), BitVec.setWidth_append_eq_right]
  | cmdNop => rfl
  | cmdDecode => rfl
  | cmdClear => rfl
  | cmdRsvd d =>
    have hd := (reservedCommand_iff d).1 hwf
    refine (decode_writeWord_cmd d).trans ?_
    rw [if_neg (by bv_omega), if_neg (by bv_omega), if_neg (by bv_omega)]
  | wrFramelen d => exact decode_append_ranges 0x381 d
  | wrIgnored a d =>
    have ha := (ignoredWrite_iff a).1 hwf
    refine (decode_writeWord_of_ne_cmd (by bv_omega) d).trans ?_
    rw [if_neg (by omega), if_neg (by bv_omega)]

/-! ### Encoding a decoded word -/

/-- Every word is a well-formed transaction's, found by the range of its upper ten bits. -/
theorem exists_wf_encode_eq (w : BusWord) : ∃ i : Instr, i.wf = true ∧ encode i = w := by
  obtain ⟨x, d, rfl⟩ := word_split w
  have withData {y : BitVec 10} (h : y = x) : (y ++ d : BitVec (10 + 8)) = x ++ d := by rw [h]
  have row {p : BitVec 10} (h : x.toNat = p.toNat) : p = x := BitVec.eq_of_toNat_eq h.symm
  have hx := x.isLt
  have ranges : x.toNat < 0x100 ∨ 0x100 ≤ x.toNat ∧ x.toNat < 0x180 ∨ x.toNat = 0x180 ∨ x.toNat = 0x181 ∨
      x.toNat = 0x182 ∨ 0x190 ≤ x.toNat ∧ x.toNat < 0x1A0 ∨
      (0x183 ≤ x.toNat ∧ x.toNat ≤ 0x18F ∨ 0x1A0 ≤ x.toNat ∧ x.toNat < 0x200) ∨
      0x200 ≤ x.toNat ∧ x.toNat < 0x300 ∨ x.toNat = 0x380 ∨ x.toNat = 0x381 ∨
      (0x300 ≤ x.toNat ∧ x.toNat ≤ 0x37F ∨ 0x382 ≤ x.toNat) := by omega
  rcases ranges with h | h | h | h | h | h | h | h | h | h | h
  · exact ⟨.rdInbuf (x.setWidth 8) d, rfl, withData (append_setWidth_of_leadingBits (p := 0b00#2) (by simpa using h))⟩
  · exact ⟨.rdOutbuf (x.setWidth 7) d, rfl, withData (append_setWidth_of_leadingBits (p := 0b010#3) (by simp; omega))⟩
  · exact ⟨.rdCmd d, rfl, withData (row (p := 0x180) h)⟩
  · exact ⟨.rdFramelen d, rfl, withData (row (p := 0x181) h)⟩
  · exact ⟨.rdStatus d, rfl, withData (row (p := 0x182) h)⟩
  · exact ⟨.rdResult (x.setWidth 4) d, rfl,
      withData (append_setWidth_of_leadingBits (p := 0b011001#6) (by simp; omega))⟩
  · exact ⟨.rdRsvd (x.setWidth 9) d, (reservedRead_iff _).2 (by simp; omega),
      withData (append_setWidth_of_leadingBits (p := 0b0#1) (by simp; omega))⟩
  · exact ⟨.wrInbuf (x.setWidth 8) d, rfl, withData (append_setWidth_of_leadingBits (p := 0b10#2) (by simp; omega))⟩
  · obtain rfl := row (p := 0x380) h
    by_cases hnop : d = 0x00
    · exact ⟨.cmdNop, rfl, hnop ▸ rfl⟩
    by_cases hdecode : d = 0x01
    · exact ⟨.cmdDecode, rfl, hdecode ▸ rfl⟩
    by_cases hclear : d = 0x02
    · exact ⟨.cmdClear, rfl, hclear ▸ rfl⟩
    · exact ⟨.cmdRsvd d, (reservedCommand_iff d).2 (by bv_omega), rfl⟩
  · exact ⟨.wrFramelen d, rfl, withData (row (p := 0x381) h)⟩
  · exact ⟨.wrIgnored (x.setWidth 9) d, (ignoredWrite_iff _).2 (by simp; omega),
      withData (append_setWidth_of_leadingBits (p := 0b1#1) (by simp; omega))⟩

/-- Settles O2: the word is a well-formed transaction's, and that transaction is what it decodes to. -/
theorem everyWordIsOneTransaction : Obligations.EveryWordIsOneTransaction := by
  intro w
  obtain ⟨i, hwf, rfl⟩ := exists_wf_encode_eq w
  rw [encodeThenDecodeIsIdentity i hwf]
  exact ⟨hwf, rfl⟩

/-! ### The row taken (30_encoding.md R58) -/

/-- A row's test as 30_encoding.md R58 writes it. -/
def passes (w : BusWord) (row : BusWord × BusWord) : Bool := hits w row.1 row.2

/-- A word that fails the last read row's test passes the last write row's: its bit 17 is 0 or 1. -/
theorem passes_write_of_not_read {w : BusWord} (h : ¬ passes w (0x20000, 0x00000)) : passes w (0x20000, 0x20000) := by
  have hbit : w &&& 0x20000#18 = if w.getLsbD 17 then 0x20000#18 else 0#18 := BitVec.and_twoPow w 17
  have hset : w.getLsbD 17 = true := by
    by_contra hclear
    exact h (beq_iff_eq.2 (hbit.trans (if_neg hclear)))
  exact beq_iff_eq.2 (hbit.trans (if_pos hset))

/-- One row of the map: if it is row `k`, and the rows after it are taken right where it fails, then so they are
with it. -/
theorem findIdx?_passes_cons {w : BusWord} {row : BusWord × BusWord} {rows : List (BusWord × BusWord)} {i j : Instr}
    {k : Nat} (hi : rowIndex i = k)
    (hj : ¬ passes w row → (rows.findIdx? (passes w)).map (· + (k + 1)) = some (rowIndex j)) :
    ((row :: rows).findIdx? (passes w)).map (· + k) = some (rowIndex (if passes w row then i else j)) := by
  rw [List.findIdx?_cons]
  split_ifs with h
  · simp [hi]
  · rw [← hj h, Option.map_map]
    exact congrArg (Option.map · _) (funext fun x => by simp [Nat.add_right_comm, Nat.add_assoc])

/-- Settles O3, row by row: `decode` asks the rows' tests in the map's order, and where the first thirteen fail the last
one passes. -/
theorem firstMatchingRowIsTaken : Obligations.FirstMatchingRowIsTaken := by
  intro w
  change transactionMap.findIdx? (passes w) = some (rowIndex (decode w))
  refine (Option.map_id_apply (x := transactionMap.findIdx? (passes w))).symm.trans ?_
  refine findIdx?_passes_cons (k := 0) rfl fun _ => ?_
  iterate 5 refine findIdx?_passes_cons rfl fun _ => ?_
  refine findIdx?_passes_cons rfl fun hread => ?_
  iterate 6 refine findIdx?_passes_cons rfl fun _ => ?_
  simpa [rowIndex] using passes_write_of_not_read hread

/-! ### The address map (20_memory.md R32) -/

/-- A read decodes by its address. -/
theorem decode_readWord (a : Addr) (d : Byte) :
    decode (readWord a d) =
      if a.toNat < 0x100 then .rdInbuf (a.setWidth 8) d
      else if a.toNat < 0x180 then .rdOutbuf (a.setWidth 7) d
      else if a.toNat = 0x180 then .rdCmd d
      else if a.toNat = 0x181 then .rdFramelen d
      else if a.toNat = 0x182 then .rdStatus d
      else if 0x190 ≤ a.toNat ∧ a.toNat < 0x1A0 then .rdResult (a.setWidth 4) d
      else .rdRsvd a d := by
  have htop : (0#1 ++ a : BitVec (1 + 9)).toNat = a.toNat := (toNat_fixedBits_append 0#1 a rfl).trans (Nat.zero_add _)
  have lowBits (k : Nat) (hk : k ≤ 9) : (0#1 ++ a : BitVec (1 + 9)).setWidth k = a.setWidth k := by
    rw [BitVec.setWidth_append, dif_pos hk]
  refine (decode_append_ranges (0#1 ++ a : BitVec (1 + 9)) d).trans ?_
  rw [lowBits 8 (by decide), lowBits 7 (by decide), lowBits 4 (by decide), lowBits 9 le_rfl, BitVec.setWidth_eq, htop,
    if_pos (show a.toNat < 0x200 from a.isLt)]
  exact ite_congr rfl (fun _ => rfl) fun h => if_congr (and_iff_right (not_lt.1 h)) rfl rfl

/-- Settles O4, range by range. -/
theorem readAddressSelectsTransaction : Obligations.ReadAddressSelectsTransaction := by
  intro a d
  rw [decode_readWord]
  refine ⟨fun h => if_pos h, fun h h' => ?outBuf, fun h => ?cmd, fun h => ?frameLen, fun h => ?status, fun h h' => ?gap,
    fun h h' => ?result, fun h => ?above⟩
  case outBuf => rw [if_neg (by omega), if_pos h']
  case cmd => rw [h]; rfl
  case frameLen => rw [h]; rfl
  case status => rw [h]; rfl
  case result =>
    iterate 5 rw [if_neg (by omega)]
    rw [if_pos ⟨h, h'⟩]
  all_goals iterate 6 rw [if_neg (by omega)]

/-- Settles O5: the commands by their codes, the other writes by their addresses. -/
theorem writeAddressSelectsTransaction : Obligations.WriteAddressSelectsTransaction := by
  intro a d
  have ofAddr {k : Addr} (h : a.toNat = k.toNat) : a = k := BitVec.eq_of_toNat_eq h
  have other (h : a.toNat ≠ 0x180) := decode_writeWord_of_ne_cmd (mt (congrArg BitVec.toNat) h : a ≠ 0x180#9) d
  refine ⟨fun h => ?inBuf, fun h h' => ?outBuf, fun h hd => ?nop, fun h hd => ?decode, fun h hd => ?clear,
    fun h hd => ?reserved, fun h => ?frameLen, fun h => ?above⟩
  case inBuf => rw [other (by omega), if_pos h]
  case frameLen => rw [ofAddr (k := 0x181) h]; exact decode_writeWord_of_ne_cmd (by decide) d
  case nop => rw [ofAddr (k := 0x180) h, hd]; rfl
  case decode => rw [ofAddr (k := 0x180) h, hd]; rfl
  case clear => rw [ofAddr (k := 0x180) h, hd]; rfl
  case reserved =>
    rw [ofAddr (k := 0x180) h, decode_writeWord_cmd, if_neg (by bv_omega), if_neg (by bv_omega), if_neg (by bv_omega)]
  all_goals rw [other (by omega), if_neg (by omega), if_neg (by bv_omega)]

/-! ### The fields of a word (30_encoding.md R57, R61) -/

/-- Settles O6: a word is W and ADDR as its upper ten bits and then DATA, and ADDR is the low nine of the ten. -/
theorem wordPacksItsFields : Obligations.WordPacksItsFields := by
  intro isWrite a d
  refine ⟨?_, (wordAddr_append _ d).trans BitVec.setWidth_append_eq_right, wordData_append _ d⟩
  have hpack : (busWord isWrite a d).toNat = (isWrite.toNat <<< 9 ||| a.toNat) <<< 8 ||| d.toNat := by
    rw [busWord, BitVec.toNat_append, BitVec.toNat_append, BitVec.toNat_ofBool]
  rw [hpack, Nat.shiftLeft_or_distrib, ← Nat.shiftLeft_add]

/-- Settles O7: each word is a number below 2 ^ 18, decoded by evaluation; 0x40000 is none. -/
theorem wordsOfTheSpecDecode : Obligations.WordsOfTheSpecDecode := by
  unfold Obligations.WordsOfTheSpecDecode
  decide

end Sys2Proof
end

section
/-! Every step and every transaction (42_bus_ops.md R90): that each answers a next state, what it does to the pending
moves and to memory, and the transactions' rules of reading again, of exchange and while BUSY. -/

namespace Sys2Proof.Machine

variable {s t u : State} {i : Instr} {w : BusWord} {rest : List Move}

/-! ### No stop (20_memory.md R42, 30_encoding.md R64) -/

theorem exec_answers (i : Instr) (s : State) : ∃ t, exec i s = .next t := by
  rcases exec_cases i s with ⟨_, h⟩ | h | h | ⟨-, ⟨_, _, -, h⟩ | ⟨_, -, h⟩ | ⟨-, h⟩ | ⟨-, h⟩⟩ <;> exact ⟨_, h⟩

theorem eq_of_exec (h : exec i s = .next t) (h' : exec i s = .next u) : t = u := Host.Outcome.next.inj (h.symm.trans h')

/-- Everything the state that a transaction answers can be (`exec_cases`, by that state). -/
theorem exec_next_cases (h : exec i s = .next t) :
    (∃ v, t = s.respond v) ∨ t = s.respondDraw ∨ t = s ∨
    (s.phase = .idle ∧
      ((∃ k d, i = .wrInbuf k d ∧ t = s.storeIn k.toNat d) ∨ (∃ d, i = .wrFramelen d ∧ t = s.setFrameLen d) ∨
       (i = .cmdDecode ∧ t = s.accept) ∨ (i = .cmdClear ∧ t = s.clear))) := by
  simpa only [h, Host.Outcome.next.injEq] using exec_cases i s

theorem step_answers (s : State) : ∃ t, step s = .next t := by
  cases h : s.schedule with
  | nil => exact ⟨_, step_nil h⟩
  | cons m rest =>
    cases m with
    | host w => exact (exec_answers (decode w) (s.sched rest)).imp fun _ => (step_host h).trans
    | engine => exact ⟨_, step_engine h⟩
    | reset => exact ⟨_, step_reset h⟩

/-- Settles O11, by the forms of a transaction, and of a step. -/
theorem everyStepAnswersANextState : Obligations.EveryStepAnswersANextState := ⟨step_answers, exec_answers⟩

theorem runSteps_answers (k : Nat) (s : State) : ∃ t, runSteps k s = .next t := by
  induction k generalizing s with
  | zero => exact ⟨s, rfl⟩
  | succ k ih =>
    obtain ⟨u, hu⟩ := step_answers s
    exact (ih u).imp fun _ => (runSteps_succ hu).trans

/-! ### The transaction a step performs -/

theorem step_withFetchWord {nbits n : Nat} (h : wordOfBits nbits n = .ok w) :
    step (s.withFetchWord nbits n) = exec (decode w) s := by
  rw [State.withFetchWord, h]
  exact step_host rfl

theorem decodeTableWord_eq_some {nbits n : Nat} (h : decodeTableWord nbits n = some i) :
    ∃ w, wordOfBits nbits n = .ok w ∧ decode w = i := by
  unfold decodeTableWord decodeBits at h
  cases hw : wordOfBits nbits n with
  | ok w => rw [hw] at h; exact ⟨w, rfl, Option.some.inj h⟩
  | error r => rw [hw] at h; cases h

theorem wordOfBits_toNat (w : BusWord) : wordOfBits 24 w.toNat = .ok w := by
  have hlt : w.toNat % 2 ^ 24 = w.toNat := Nat.mod_eq_of_lt (w.isLt.trans (by decide))
  rw [wordOfBits, hlt, if_pos w.isLt, BitVec.ofNat_toNat, BitVec.setWidth_eq]

/-- Settles O10: the step at a host word, and that a fetched word is one at the head of the schedule. -/
theorem stepPerformsTheDecodedTransaction : Obligations.StepPerformsTheDecodedTransaction := by
  refine ⟨fun s w rest => step_host, fun s n i h => ?_, fun s i hwf => ?_⟩
  · obtain ⟨w, hw, rfl⟩ := decodeTableWord_eq_some h
    exact step_withFetchWord hw
  · rw [step_withFetchWord (wordOfBits_toNat _), encodeThenDecodeIsIdentity i hwf]

/-- Settles O42: the rule of the engine's turn while IDLE, in either of its forms. -/
theorem engineDoesNothingWhileIdle : Obligations.EngineDoesNothingWhileIdle := fun _ _ => step_engineTurn_idle

/-! ### The pending moves -/

theorem exec_schedule (h : exec i s = .next t) : t.schedule = s.schedule := by
  rcases exec_next_cases h with ⟨v, rfl⟩ | rfl | rfl | ⟨-, ⟨k, d, -, rfl⟩ | ⟨d, -, rfl⟩ | ⟨-, rfl⟩ | ⟨-, rfl⟩⟩ <;> rfl

theorem complete_schedule (s : State) : s.complete.schedule = s.schedule := by
  obtain ⟨-, -, -, -, -, -, hs⟩ := complete_frame s
  exact hs

theorem engineMove_schedule (s : State) : s.engineMove.schedule = s.schedule := by
  cases hp : s.phase with
  | idle => rw [engineMove_idle hp]
  | busy => rw [engineMove_busy hp, complete_schedule]

/-- A step uses up the next move. -/
theorem step_schedule (h : step s = .next t) : t.schedule = s.schedule.tail := by
  rcases step_cases h with ⟨w, rest, hs, hx⟩ | ⟨hs, rfl⟩ | ⟨rest, hs, rfl⟩ | ⟨rest, hs, rfl⟩
  · rw [exec_schedule hx, hs]; rfl
  · rw [engineMove_schedule, hs]; rfl
  · rw [engineMove_schedule, hs]; rfl
  · rw [hs]; rfl

/-! ### The canonical form of memory (log 4) -/

theorem exec_keeps_wf (hwf : s.mem.Wf) (h : exec i s = .next t) : t.mem.Wf := by
  rcases exec_next_cases h with ⟨v, rfl⟩ | rfl | rfl | ⟨-, ⟨k, d, -, rfl⟩ | ⟨d, -, rfl⟩ | ⟨-, rfl⟩ | ⟨-, rfl⟩⟩
  · exact hwf
  · exact hwf
  · exact hwf
  · exact wf_storeIn hwf k.isLt d
  · exact hwf
  · exact hwf
  · exact wf_clear hwf

theorem engineMove_keeps_wf (hwf : s.mem.Wf) : s.engineMove.mem.Wf := by
  cases hp : s.phase with
  | idle => rwa [engineMove_idle hp]
  | busy => rw [engineMove_busy hp]; exact wf_complete hwf

theorem step_keeps_wf (hwf : s.mem.Wf) (h : step s = .next t) : t.mem.Wf := by
  rcases step_cases h with ⟨w, rest, -, hx⟩ | ⟨-, rfl⟩ | ⟨rest, -, rfl⟩ | ⟨rest, -, rfl⟩
  · exact exec_keeps_wf (s := s.sched rest) hwf hx
  · exact engineMove_keeps_wf hwf
  · exact engineMove_keeps_wf (s := s.sched rest) hwf
  · exact Memory.wf_nil

/-! ### Reads (20_memory.md R39, 70_reset_and_hazards.md R126) -/

/-- A word is its bit 17, ADDR and DATA. -/
theorem busWord_fields (w : BusWord) : busWord (w.getLsbD 17) (wordAddr w) (wordData w) = w := by
  obtain ⟨x, d, rfl⟩ := word_split w
  have htop : (x ++ d : BitVec (10 + 8)).getLsbD 17 = x.msb := by
    rw [BitVec.getLsbD_append, if_neg (by decide), BitVec.msb_eq_getLsbD_last]
  rw [wordAddr_append, wordData_append, htop]
  exact congrArg (fun y : BitVec 10 => (y ++ d : BitVec (10 + 8))) (BitVec.cons_msb_setWidth x)

/-- A read returns a draw, or a byte that the same read returns again. -/
theorem exec_readWord_cases (a : Addr) (d : Byte) (s : State) :
    exec (decode (readWord a d)) s = .next s.respondDraw ∨
    ∃ v, exec (decode (readWord a d)) s = .next (s.respond v) ∧
      exec (decode (readWord a d)) (s.respond v) = .next (s.respond v) := by
  rw [decode_readWord]
  split_ifs with h1 h2 h3 h4 h5 h6
  · cases h : s.inByte (a.setWidth 8).toNat with
    | some v => exact .inr ⟨v, exec_rdInbuf_written h, exec_rdInbuf_written (s := s.respond v) h⟩
    | none => exact .inl (exec_rdInbuf_unwritten h)
  · cases hp : s.phase with
    | idle => exact .inr ⟨_, exec_rdOutbuf_idle hp, exec_rdOutbuf_idle (s := s.respond _) hp⟩
    | busy => exact .inl (exec_rdOutbuf_busy hp)
  · exact .inr ⟨0x00, rfl, rfl⟩
  · exact .inr ⟨s.frameLen, rfl, rfl⟩
  · exact .inr ⟨s.status, rfl, rfl⟩
  · by_cases hoff : (a.setWidth 4).toNat < 12
    · cases hp : s.phase with
      | idle => exact .inr ⟨_, exec_rdResult_idle hoff hp, exec_rdResult_idle (s := s.respond _) hoff hp⟩
      | busy => exact .inl (exec_rdResult_busy hoff hp)
    · exact .inr ⟨0x00, exec_rdResult_unused (not_lt.1 hoff), exec_rdResult_unused (not_lt.1 hoff)⟩
  · exact .inr ⟨0x00, rfl, rfl⟩

/-- Settles O18: a draw shows in the draw counter, and any other read returns its byte again. -/
theorem readsAreIdempotent : Obligations.ReadsAreIdempotent := by
  intro w s t u hread ht hdraws hu
  rw [← busWord_fields w, hread, ← readWord] at ht hu
  rcases exec_readWord_cases (wordAddr w) (wordData w) s with h | ⟨v, h, hagain⟩ <;>
    obtain rfl := eq_of_exec h ht
  · exact absurd hdraws (Nat.succ_ne_self _)
  · obtain rfl := eq_of_exec hagain hu
    exact ⟨rfl, rfl, rfl, rfl, ⟨rfl, rfl, rfl⟩, rfl, fun _ => rfl⟩

/-- A read of OUT_BUF or of a result register while BUSY returns a draw. -/
theorem exec_resultRead_busy (hp : s.phase = .busy) {a : Addr} (d : Byte)
    (ha : 0x100 ≤ a.toNat ∧ a.toNat < 0x180 ∨ 0x190 ≤ a.toNat ∧ a.toNat < 0x19C) :
    exec (decode (readWord a d)) s = .next s.respondDraw := by
  rw [decode_readWord]
  rcases ha with ⟨hlo, hhi⟩ | ⟨hlo, hhi⟩
  · rw [if_neg (by omega), if_pos hhi]
    exact exec_rdOutbuf_busy hp
  · have hoff : (a.setWidth 4).toNat < 12 := by rw [BitVec.toNat_setWidth]; omega
    iterate 5 rw [if_neg (by omega)]
    rw [if_pos (by omega)]
    exact exec_rdResult_busy hoff hp

/-- Settles O19: the second read's draw has the next number. -/
theorem busyResultReadsDrawAnew : Obligations.BusyResultReadsDrawAnew := by
  intro s t u a b d e hp ha hb ht hu
  obtain rfl := eq_of_exec (exec_resultRead_busy hp d ha) ht
  obtain rfl := eq_of_exec (exec_resultRead_busy (s := s.respondDraw) hp e hb) hu
  exact ⟨s.draws, s.draws + 1, (Nat.succ_ne_self _).symm, rfl, rfl⟩

/-! ### While BUSY (10_state.md R29, 20_memory.md R44) -/

theorem SameBlock.refl (s : State) : SameBlock s s := ⟨rfl, rfl, ⟨rfl, rfl, rfl⟩, rfl, fun _ => rfl⟩

theorem exec_busy_sameBlock (hp : s.phase = .busy) (h : exec i s = .next t) : SameBlock s t := by
  rcases exec_next_cases h with ⟨v, rfl⟩ | rfl | rfl | ⟨hidle, -⟩
  · exact sameBlock_respond v
  · exact sameBlock_respondDraw
  · exact .refl t
  · cases hp.symm.trans hidle

/-- Settles O27: while BUSY a transaction returns a byte or a draw, or does nothing. -/
theorem transactionsWhileBusyKeepTheBlock : Obligations.TransactionsWhileBusyKeepTheBlock := by
  intro s w hp
  obtain ⟨t, h⟩ := exec_answers (decode w) s
  exact ⟨t, h, exec_busy_sameBlock hp h, exec_schedule h⟩

/-! ### Exchange of input writes (70_reset_and_hazards.md R125) -/

theorem Memory.write_comm {m : Memory} (hwf : m.Wf) {a b : Nat} (hab : a ≠ b) (ha : a < 384) (hb : b < 384)
    (v w : Byte) : (m.write a v).write b w = (m.write b w).write a v := by
  refine Memory.eq_of_read_eq (wf_write (wf_write hwf ha) hb) (wf_write (wf_write hwf hb) ha) fun c => ?_
  rcases eq_or_ne c a with rfl | hca
  · rw [read_write_other hab, read_write_same, read_write_same]
  · rcases eq_or_ne c b with rfl | hcb
    · rw [read_write_same, read_write_other hca, read_write_same]
    · rw [read_write_other hcb, read_write_other hca, read_write_other hca, read_write_other hcb]

/-- Settles O28: while IDLE two IN_BUF writes list different addresses of one canonical memory, and FRAME_LEN is a field
apart from it; while BUSY all four writes are dropped. -/
theorem inputWritesCommute : Obligations.InputWritesCommute := by
  intro s i j d e t t' u u' v v' hwf hij ht hu ht' hu' hv hv'
  cases hp : s.phase with
  | idle =>
    obtain rfl := eq_of_exec (exec_wrInbuf_idle hp) ht
    obtain rfl := eq_of_exec (exec_wrInbuf_idle hp) ht'
    obtain rfl := eq_of_exec (exec_wrFramelen_idle hp) hv'
    obtain rfl := eq_of_exec (exec_wrInbuf_idle (s := s.storeIn _ _) hp) hu
    obtain rfl := eq_of_exec (exec_wrInbuf_idle (s := s.storeIn _ _) hp) hu'
    obtain rfl := eq_of_exec (exec_wrFramelen_idle (s := s.storeIn _ _) hp) hv
    have hcomm := Memory.write_comm hwf (mt BitVec.eq_of_toNat_eq hij) (by omega) (by omega) d e
    exact ⟨congrArg (fun m => { s with mem := m }) hcomm, exec_wrInbuf_idle (s := s.setFrameLen e) hp⟩
  | busy =>
    obtain rfl := eq_of_exec (exec_wrInbuf_busy hp) ht
    obtain rfl := eq_of_exec (exec_wrInbuf_busy hp) ht'
    obtain rfl := eq_of_exec (exec_wrFramelen_busy hp) hv'
    obtain rfl := eq_of_exec hu (exec_wrInbuf_busy hp)
    obtain rfl := eq_of_exec hu' (exec_wrInbuf_busy hp)
    obtain rfl := eq_of_exec hv (exec_wrFramelen_busy hp)
    exact ⟨rfl, exec_wrInbuf_busy hp⟩

/-! ### Host branches (30_encoding.md R62) -/

/-- `r'` has `r`'s block, variables and program. -/
def HostRun.SameButLine (r r' : HostRun) : Prop := r'.block = r.block ∧ r'.vars = r.vars ∧ r'.program = r.program

theorem HostRun.branch_sameButLine {r r' : HostRun} {taken : Bool} {l : Nat} (h : r.branch taken l = some r') :
    r.SameButLine r' := by
  unfold HostRun.branch at h
  split_ifs at h
  · obtain ⟨n, -, rfl⟩ := Option.map_eq_some_iff.1 h
    exact ⟨rfl, rfl, rfl⟩
  · cases h
    exact ⟨rfl, rfl, rfl⟩

/-- Settles O55: a label goes to the next line, and BNZ and BZ are branches, or no turn where no read has filled their
variable. -/
theorem hostBranchesNeverTouchTheBlock : Obligations.HostBranchesNeverTouchTheBlock := by
  intro r r' x hx hrd hwr h
  cases x <;> simp only [HostRun.turn, HostRun.hostTurn, hx] at h
  case rd a v => exact absurd rfl (hrd a v)
  case wr a d => exact absurd rfl (hwr a d)
  case label l => cases h; exact ⟨rfl, rfl, rfl⟩
  case bnz v bit l =>
    cases hb : r.vars.lookup v <;> rw [hb] at h
    · cases h
    · exact HostRun.branch_sameButLine h
  case bz v bit l =>
    cases hb : r.vars.lookup v <;> rw [hb] at h
    · cases h
    · exact HostRun.branch_sameButLine h

end Sys2Proof.Machine
end

section
/-! The invariant (10_state.md R19, R22, R25): every step keeps it, reset meets it, and runs go on in it; and the quiet
state that reset leaves until the host writes DECODE (70_reset_and_hazards.md R122). -/

namespace Sys2Proof.Machine

variable {s t : State}

/-! ### The result side -/

theorem ResultsBlank.congr (h : SameResults s t) (hb : ResultsBlank s) : ResultsBlank t :=
  ⟨h.regs.trans hb.regs, fun i hi => (h.outBuf i hi).trans (hb.outBuf i hi)⟩

theorem ResultsOfFrame.congr (h : SameResults s t) (hf : ResultsOfFrame s) : ResultsOfFrame t where
  length := by rw [h.regs]; exact hf.length
  short := by rw [h.regs]; exact hf.short
  tail i hlo hi := by rw [h.regs] at hlo; rw [h.outBuf i hi]; exact hf.tail i hlo hi

theorem resultsBlank_clear (s : State) : ResultsBlank s.clear := by
  obtain ⟨-, -, -, hregs, hout, -⟩ := clear_spec s
  exact ⟨hregs, hout⟩

theorem resultsBlank_resetEvent (s : State) : ResultsBlank s.resetEvent := ⟨rfl, fun _ hi => outByte_of_nil rfl hi⟩

/-- A completion publishes a frame's result side (40_decode.md R82, 41_unmask.md R86). -/
theorem resultsOfFrame_complete {f : Frame} (h : s.frameResult = .ok f) : ResultsOfFrame s.complete := by
  obtain ⟨-, -, hregs, hout⟩ := complete_ok h
  obtain ⟨h6, hshort, hlen, rfl⟩ := decodeFrame_ok_inv h
  have hpay : s.complete.results.payloadLen.toNat = s.frameLen.toNat - 6 := by rw [hregs]; exact hlen
  refine ⟨?_, hpay ▸ hlen ▸ hshort, fun i hlo hi => ?_⟩
  · rw [hpay, Nat.sub_add_cancel h6, hregs]
    rfl
  · rw [hout i hi, frameOf_unmasked_getD, if_neg (hpay ▸ hlo).not_gt]

theorem resultsBlank_complete {e : FrameError} (h : s.frameResult = .err e) : ResultsBlank s.complete := by
  obtain ⟨-, -, hregs, hout⟩ := complete_err h
  exact ⟨hregs, hout⟩

/-! ### STATUS -/

theorem status_congr (hp : t.phase = s.phase) (hf : SameFlags s t) : t.status = s.status := by
  rw [State.status, hp, hf.done, hf.valid, hf.err]; rfl

theorem status_complete_reachable (s : State) : s.complete.status ∈ reachableStatus := by
  rw [status_complete]
  cases hr : s.frameResult with
  | ok f =>
    obtain ⟨hv, he, -⟩ := complete_ok hr
    rw [hv, he]
    decide
  | err e =>
    obtain ⟨hv, he, -⟩ := complete_err hr
    rw [hv, he]
    cases e <;> decide

/-! ### The invariant step by step -/

theorem Inv.congr (h : SameControl s t) (hwf : t.mem.Wf) (hi : Inv s) : Inv t where
  memory := hwf
  status := status_congr h.phase h.flags ▸ hi.status
  results := hi.results.imp (.congr h.results) (.congr h.results)
  blank hp hv := .congr h.results (hi.blank (h.phase.symm.trans hp) (h.flags.valid.symm.trans hv))
  frame hv := .congr h.results (hi.frame (h.flags.valid.symm.trans hv))

theorem inv_accept (hi : Inv s) : Inv s.accept := by
  have hsame : SameResults s s.accept := ⟨rfl, fun _ _ => rfl⟩
  exact ⟨hi.memory, status_accept s ▸ by decide, hi.results.imp (.congr hsame) (.congr hsame), nofun, nofun⟩

theorem inv_clear (hp : s.phase = .idle) (hi : Inv s) : Inv s.clear :=
  ⟨wf_clear hi.memory, status_clear hp ▸ by decide, .inl (resultsBlank_clear s), fun _ _ => resultsBlank_clear s, nofun⟩

theorem inv_resetEvent (s : State) : Inv s.resetEvent :=
  ⟨Memory.wf_nil, (by decide : statusWord .idle false false 0b00 ∈ reachableStatus),
    .inl (resultsBlank_resetEvent s), fun _ _ => resultsBlank_resetEvent s, nofun⟩

theorem inv_complete (hi : Inv s) : Inv s.complete := by
  have hwf := wf_complete hi.memory
  have hstatus := status_complete_reachable s
  cases hr : s.frameResult with
  | ok f =>
    obtain ⟨hv, -⟩ := complete_ok hr
    have hframe := resultsOfFrame_complete hr
    exact ⟨hwf, hstatus, .inr hframe, fun _ h => (by rw [hv] at h; cases h), fun _ => hframe⟩
  | err e =>
    obtain ⟨hv, -⟩ := complete_err hr
    have hblank := resultsBlank_complete hr
    exact ⟨hwf, hstatus, .inl hblank, fun _ _ => hblank, fun h => (by rw [hv] at h; cases h)⟩

theorem inv_sched (hi : Inv s) (rest : List Move) : Inv (s.sched rest) := .congr sameControl_sched hi.memory hi

/-- Settles O48: a step keeps PHASE, the flags and the result side, or is one of the four of `step_control_cases`. -/
theorem everyStepKeepsTheInvariant : Obligations.EveryStepKeepsTheInvariant := by
  intro s t hi h
  rcases step_control_cases h with hk | ⟨rest, ⟨-, -, rfl⟩ | ⟨hp, -, rfl⟩ | ⟨-, -, rfl⟩ | ⟨-, rfl⟩⟩
  · exact .congr hk (step_keeps_wf hi.memory h) hi
  · exact inv_accept (inv_sched hi rest)
  · exact inv_clear hp (inv_sched hi rest)
  · exact inv_complete (inv_sched hi rest)
  · exact inv_resetEvent _

/-- Settles O49: State.reset is what the reset event makes of it. -/
theorem resetMeetsTheInvariant : Obligations.ResetMeetsTheInvariant := inv_resetEvent State.reset

/-- Settles O50: no step stops, and every step keeps the invariant. -/
theorem invariantStatesRunSafely : Obligations.InvariantStatesRunSafely := by
  intro s hi k
  obtain ⟨t, ht⟩ := runSteps_answers k s
  exact ⟨t, ht, runSteps_keeps everyStepKeepsTheInvariant hi ht⟩

/-! ### Reset (70_reset_and_hazards.md R122) -/

/-- Settles O29: the next state is `resetEvent`'s. -/
theorem resetEventGivesResetValues : Obligations.ResetEventGivesResetValues := by
  intro s rest h
  refine ⟨_, step_reset h, rfl, fun i hi => written_eq_false_iff.2 (inByte_of_nil rfl hi), rfl, rfl, rfl, rfl,
    read_resultsZero, fun i hi => outByte_of_nil rfl hi, rfl, rfl, rfl⟩

/-- IDLE with no flag set and a blank result side, as reset and CLEAR leave the block. -/
structure Quiet (s : State) : Prop where
  phase : s.phase = .idle
  done : s.done = false
  valid : s.valid = false
  err : s.err = 0b00
  results : ResultsBlank s

theorem Quiet.status (hq : Quiet s) : s.status = 0x00 :=
  (statusWord_cases s.phase s.done s.valid s.err).1.2 ⟨hq.phase, hq.done, hq.valid, hq.err⟩

theorem Quiet.congr (h : SameControl s t) (hq : Quiet s) : Quiet t :=
  ⟨h.phase.trans hq.phase, h.flags.done.trans hq.done, h.flags.valid.trans hq.valid, h.flags.err.trans hq.err,
    .congr h.results hq.results⟩

theorem quiet_resetEvent (s : State) : Quiet s.resetEvent := ⟨rfl, rfl, rfl, rfl, resultsBlank_resetEvent s⟩

/-- No DECODE word is pending. -/
def NoDecodePending (s : State) : Prop := .host 0x38001 ∉ s.schedule

/-- A quiet state stays quiet while the host writes no DECODE: nothing is accepted, so nothing completes. -/
theorem quiet_step (hq : Quiet s ∧ NoDecodePending s) (h : step s = .next t) : Quiet t ∧ NoDecodePending t := by
  obtain ⟨hq, hn⟩ := hq
  refine ⟨?_, fun hmem => hn (List.mem_of_mem_tail (step_schedule h ▸ hmem))⟩
  rcases step_control_cases h with hk | ⟨rest, ⟨-, hd, -⟩ | ⟨hp, -, rfl⟩ | ⟨hb, -, -⟩ | ⟨-, rfl⟩⟩
  · exact hq.congr hk
  · exact absurd (hd ▸ List.mem_cons_self) hn
  · exact ⟨hp, rfl, rfl, rfl, resultsBlank_clear _⟩
  · cases hq.phase.symm.trans hb
  · exact quiet_resetEvent _

/-- Settles O31: the reset event leaves a quiet state. -/
theorem noDecodeSurvivesReset : Obligations.NoDecodeSurvivesReset := by
  intro s t rest k hs hn h
  rw [runSteps_succ (step_reset hs)] at h
  have hstart : Quiet (s.sched rest).resetEvent ∧ NoDecodePending (s.sched rest).resetEvent := ⟨quiet_resetEvent _, hn⟩
  obtain ⟨hq, -⟩ := runSteps_keeps (fun _ _ => quiet_step) hstart h
  exact ⟨hq.phase, hq.status, hq.results⟩

end Sys2Proof.Machine
end

section
/-! The writers of VALID and ERR, of the result side and of the input side (10_state.md R16, R17, R22, R23, R25). -/

namespace Sys2Proof.Machine

variable {s t : State} {i : Instr} {rest : List Move}

/-! ### VALID and ERR (R22, R23) -/

/-- It is the turn of a step that clears VALID and ERR: a DECODE or CLEAR word while IDLE, or a reset. -/
def ClearsFlags (s : State) (rest : List Move) : Prop :=
  (s.phase = .idle ∧ (s.schedule = .host 0x38001 :: rest ∨ s.schedule = .host 0x38002 :: rest)) ∨
    s.schedule = .reset :: rest

theorem step_valid_err_of_clearsFlags (h : step s = .next t) (hc : ClearsFlags s rest) :
    t.valid = false ∧ t.err = 0b00 := by
  rcases hc with ⟨hp, hd | hc⟩ | hr
  · exact eq_of_step h (step_decodeWord_idle hp hd) ▸ ⟨rfl, rfl⟩
  · exact eq_of_step h (step_clearWord_idle hp hc) ▸ ⟨rfl, rfl⟩
  · exact eq_of_step h (step_reset hr) ▸ ⟨rfl, rfl⟩

/-- A completion that reports an error leaves VALID 0 and the error's code. -/
theorem complete_valid_err_of_err {e : FrameError} (h : s.frameResult = .err e) :
    s.complete.valid = false ∧ s.complete.err = e.code := by
  obtain ⟨hv, he, -⟩ := complete_err h
  exact ⟨hv, he⟩

/-- Settles O45: the four steps of `step_control_cases`, of which the completion writes what `decode` answered. -/
theorem validAndErrAreWrittenOnlyByTheirWriters : Obligations.ValidAndErrAreWrittenOnlyByTheirWriters := by
  refine fun s t h => ⟨?writers, fun rest hb he => ?completion, fun rest => step_valid_err_of_clearsFlags h⟩
  case writers =>
    rcases step_control_cases h with hk | ⟨rest, ⟨hp, hd, -⟩ | ⟨hp, hc, -⟩ | ⟨hb, he, -⟩ | ⟨hr, -⟩⟩
    · exact .inl ⟨hk.flags.valid, hk.flags.err⟩
    · exact .inr (.inr ⟨rest, .inl ⟨hp, .inl hd⟩⟩)
    · exact .inr (.inr ⟨rest, .inl ⟨hp, .inr hc⟩⟩)
    · exact .inr (.inl ⟨hb, rest, he⟩)
    · exact .inr (.inr ⟨rest, .inr hr⟩)
  case completion =>
    obtain rfl := eq_of_step h (step_engineTurn hb he)
    have reported {e} := complete_valid_err_of_err (s := s.sched rest) (e := e)
    refine ⟨fun f hf => ?_, reported, reported, reported⟩
    obtain ⟨hv, he, -⟩ := complete_ok (s := s.sched rest) hf
    exact ⟨hv, he⟩

/-! ### The result side (R25) -/

/-- Settles O46: of the four steps of `step_control_cases`, the accept keeps the result side. -/
theorem resultsChangeOnlyAtCompletionClearReset : Obligations.ResultsChangeOnlyAtCompletionClearReset := by
  intro s t h
  rcases step_control_cases h with hk | ⟨rest, ⟨-, -, rfl⟩ | ⟨hp, hc, -⟩ | ⟨hb, he, -⟩ | ⟨hr, -⟩⟩
  · exact .inl hk.results
  · exact .inl ⟨rfl, fun _ _ => rfl⟩
  · exact .inr (.inr (.inl ⟨hp, rest, hc⟩))
  · exact .inr (.inl ⟨hb, rest, he⟩)
  · exact .inr (.inr (.inr ⟨rest, hr⟩))

/-! ### The input side (R16, R17) -/

theorem SameInput.refl (s : State) : SameInput s s := ⟨rfl, fun _ _ => rfl⟩

/-- A transaction keeps the input side, unless it is an IN_BUF or FRAME_LEN write while IDLE. -/
theorem exec_input_cases (h : exec i s = .next t) :
    SameInput s t ∨ (s.phase = .idle ∧ ((∃ k d, i = .wrInbuf k d) ∨ ∃ d, i = .wrFramelen d)) := by
  rcases exec_next_cases h with ⟨v, rfl⟩ | rfl | rfl | ⟨hp, ⟨k, d, hi, -⟩ | ⟨d, hi, -⟩ | ⟨-, rfl⟩ | ⟨-, rfl⟩⟩
  · exact .inl ⟨rfl, fun _ _ => rfl⟩
  · exact .inl ⟨rfl, fun _ _ => rfl⟩
  · exact .inl (.refl t)
  · exact .inr ⟨hp, .inl ⟨k, d, hi⟩⟩
  · exact .inr ⟨hp, .inr ⟨d, hi⟩⟩
  · exact .inl ⟨rfl, fun _ _ => rfl⟩
  · obtain ⟨-, -, -, -, -, hin, -, hlen, -⟩ := clear_spec s
    exact .inl ⟨hlen, hin⟩

theorem engineMove_sameInput (s : State) : SameInput s s.engineMove := by
  cases hp : s.phase with
  | idle => rw [engineMove_idle hp]; exact .refl s
  | busy =>
    obtain ⟨-, -, hlen, hin, -⟩ := complete_frame s
    rw [engineMove_busy hp]
    exact ⟨hlen, hin⟩

/-- W and ADDR of an IN_BUF write. -/
theorem writeInBuf_top : ∀ k : BitVec 8, (0b10#2 ++ k : BitVec 10) = 1#1 ++ (0#1 ++ k) := by decide

/-- A word that reads as an IN_BUF or FRAME_LEN write is a write to such an address: the transaction gives the word
back. -/
theorem eq_inputWrite_of_decode {w : BusWord} (h : (∃ k d, decode w = .wrInbuf k d) ∨ ∃ d, decode w = .wrFramelen d) :
    ∃ a d, w = writeWord a d ∧ (a.toNat < 0x100 ∨ a.toNat = 0x181) := by
  obtain ⟨-, hw⟩ := everyWordIsOneTransaction w
  rcases h with ⟨k, d, hi⟩ | ⟨d, hi⟩ <;> rw [hi] at hw
  · have haddr : (0#1 ++ k).toNat = k.toNat := (toNat_fixedBits_append 0#1 k rfl).trans (Nat.zero_add _)
    exact ⟨0#1 ++ k, d, hw.symm.trans (congrArg (fun x : BitVec 10 => (x ++ d : BitVec (10 + 8))) (writeInBuf_top k)),
      .inl (haddr ▸ k.isLt)⟩
  · exact ⟨0x181, d, hw.symm, .inr rfl⟩

/-- Settles O47: transactions by `exec_input_cases`; the engine's move keeps the input side. -/
theorem inputChangesOnlyByHostWriteOrReset : Obligations.InputChangesOnlyByHostWriteOrReset := by
  intro s t h
  rcases step_cases h with ⟨w, rest, hs, hx⟩ | ⟨-, rfl⟩ | ⟨rest, -, rfl⟩ | ⟨rest, hs, -⟩
  · rcases exec_input_cases hx with hk | ⟨hp, hi⟩
    · exact .inl ⟨hk.frameLen, hk.inBuf⟩
    · obtain ⟨a, d, rfl, ha⟩ := eq_inputWrite_of_decode hi
      exact .inr (.inr ⟨hp, a, d, rest, hs, ha⟩)
  · exact .inl (engineMove_sameInput s)
  · have hk := engineMove_sameInput (s.sched rest)
    exact .inl ⟨hk.frameLen, hk.inBuf⟩
  · exact .inr (.inl ⟨rest, hs⟩)

end Sys2Proof.Machine
end

section
/-! The pure `decode` and what a completion publishes of it (40_decode.md R70 to R82, 41_unmask.md R84 to R89). -/

namespace Sys2Proof.Machine

variable {bytes : Nat → Byte} {n : Byte} {f : Frame}

/-! ### Header fields -/

/-- Settles O33, by all 256 bytes. -/
theorem masksAgreeWithPositions : Obligations.MasksAgreeWithPositions := by
  unfold Obligations.MasksAgreeWithPositions
  decide

/-- A one-bit field as its register reads: the bit shifted down to bit 0. -/
theorem zextBool_bitAt (b : Byte) {p : Nat} (hp : p ≤ 7) : zextBool (bitAt b p) = (b >>> (7 - p)) &&& 1 := by
  have hlow : (b >>> (7 - p)).getLsbD 0 = b.getLsbD (7 - p) := BitVec.getLsbD_ushiftRight ..
  rw [bitAt_eq_getLsbD b hp, zextBool, ← hlow]
  exact BitVec.and_one_eq_setWidth_ofBool_getLsbD.symm

theorem opcodeField_zext : ∀ b : Byte, (opcodeField b).setWidth 8 = b &&& 0x0F := by decide

theorem payloadLenField_zext : ∀ b : Byte, (payloadLenField b).setWidth 8 = b &&& 0x7F := by decide

/-! ### The payload views -/

theorem frameOf_masked_eq_some {i : Nat} {m : Byte} :
    (frameOf bytes n).masked[i]? = some m ↔ i < n.toNat - 6 ∧ bytes (6 + i) = m := by
  simp [frameOf, List.getElem?_eq_some_iff]

theorem frameOf_unmasked_eq_some {i : Nat} {u : Byte} :
    (frameOf bytes n).unmasked[i]? = some u ↔
      i < n.toNat - 6 ∧ bytes (6 + i) ^^^ (frameOf bytes n).fields.keyAt i = u := by
  simp [frameOf, List.getElem?_eq_some_iff, unmaskByte]

/-- Settles O34: the length checks that `decode` passed, and the views' lengths. -/
theorem decodedFramesHaveTheirLengths : Obligations.DecodedFramesHaveTheirLengths := by
  intro bytes n f h
  obtain ⟨h6, hshort, hlen, rfl⟩ := decodeFrame_ok_inv h
  have hpay : (frameOf bytes n).fields.payloadLen.toNat = n.toNat - 6 := hlen
  exact ⟨h6, by omega, rfl, by omega, by simp [frameOf], by simp [frameOf], by simp [frameOf]⟩

/-- Settles O35: the characters are the unmasked bytes mapped by `codePoint`. -/
theorem payloadCharactersAreByteValues : Obligations.PayloadCharactersAreByteValues := by
  intro bytes n f i u h hu
  obtain ⟨-, -, -, rfl⟩ := decodeFrame_ok_inv h
  exact List.getElem?_map.trans (congrArg (Option.map codePoint) hu)

/-- Settles O37: XOR with the key byte undoes itself. -/
theorem unmaskRoundTrip : Obligations.UnmaskRoundTrip := by
  intro bytes n f i u h hu
  obtain ⟨-, -, -, rfl⟩ := decodeFrame_ok_inv h
  obtain ⟨hi, rfl⟩ := frameOf_unmasked_eq_some.1 hu
  rw [BitVec.xor_assoc, BitVec.xor_self, BitVec.xor_zero]
  exact ⟨frameOf_masked_eq_some.2 ⟨hi, rfl⟩, rfl⟩

theorem unmasked_eq_masked_xor {i : Nat} {u m : Byte} (h : decodeFrame bytes n = .ok f) (hu : f.unmasked[i]? = some u)
    (hm : f.masked[i]? = some m) : u = m ^^^ f.fields.keyAt i := by
  obtain ⟨-, -, -, rfl⟩ := decodeFrame_ok_inv h
  obtain ⟨-, rfl⟩ := frameOf_unmasked_eq_some.1 hu
  obtain ⟨-, rfl⟩ := frameOf_masked_eq_some.1 hm
  rfl

theorem keyAt_congr_mod (r : Results) {i j : Nat} (h : i % 4 = j % 4) : r.keyAt i = r.keyAt j := by
  simp only [Results.keyAt, Config.keyBytes, h]

/-- Settles O38: an unmasked byte is its masked byte XOR its key byte, and the key has period 4. -/
theorem unmaskCornerLaws : Obligations.UnmaskCornerLaws := by
  intro bytes n f i u m h hu hm
  obtain rfl := unmasked_eq_masked_xor h hu hm
  refine ⟨fun hk => hk ▸ BitVec.xor_zero, fun hk => hk ▸ BitVec.xor_self, fun hz => hz ▸ BitVec.zero_xor,
    fun u' m' hu' hm' => ?_, fun j => ?_⟩
  · have hperiod : f.fields.keyAt (i + 4) = f.fields.keyAt i := keyAt_congr_mod _ (Nat.add_mod_right i 4)
    rw [unmasked_eq_masked_xor h hu' hm', hperiod, BitVec.xor_comm m, ← BitVec.xor_assoc, BitVec.xor_assoc m',
      BitVec.xor_self, BitVec.xor_zero]
  · rw [keyAt_congr_mod f.fields (Nat.mod_mod i 4), BitVec.getLsbD_xor]

/-! ### The Ok completion (40_decode.md R81) -/

theorem decodeFrame_ok (h6 : 6 ≤ n.toNat) (hshort : (payloadLenField (bytes 1)).toNat ≤ 125)
    (hlen : (payloadLenField (bytes 1)).toNat = n.toNat - 6) : decodeFrame bytes n = .ok (frameOf bytes n) :=
  (if_neg h6.not_gt).trans ((if_neg (mt (marks_iff _).1 hshort.not_gt)).trans (if_neg (not_not.2 hlen)))

theorem frameOf_unmasked_getD_bytes (i : Nat) :
    (frameOf bytes n).unmasked.getD i 0x00 =
      if i < n.toNat - 6 then bytes (6 + i) ^^^ bytes (2 + i % 4) else 0x00 := by
  rw [frameOf_unmasked_getD, keyAt_headerFields]

/-- Settles O39: the step is the completion, which publishes the frame of the engine's bytes. -/
theorem completionPublishesTheFrame : Obligations.CompletionPublishesTheFrame := by
  rintro s rest b hb he rfl h6 hshort hlen
  rw [← payloadLenField_toNat_eq_and] at hshort hlen
  obtain ⟨hphase, hdone, hframeLen, hin, hread, -, hsched⟩ := complete_frame (s.sched rest)
  obtain ⟨hvalid, herr, hregs, hout⟩ := complete_ok (s := s.sched rest) (decodeFrame_ok h6 hshort hlen)
  refine ⟨_, step_engineTurn hb he, hphase, ?_, ?_⟩
  · rw [status_complete, hvalid, herr]; rfl
  rw [hregs]
  exact ⟨zextBool_bitAt _ (by decide), zextBool_bitAt _ (by decide), zextBool_bitAt _ (by decide),
    zextBool_bitAt _ (by decide), opcodeField_zext _, zextBool_bitAt _ (by decide), payloadLenField_zext _, rfl, rfl,
    rfl, rfl, rfl, fun i hi => (hout i hi).trans (frameOf_unmasked_getD_bytes i), ⟨hframeLen, hin⟩, hsched, hread⟩

end Sys2Proof.Machine
end

section
/-! Whole decodes (70_reset_and_hazards.md R131, R132; 00_scope.md R11): a decode ends, it ends with the function of the
input at its accept, a loaded frame is decoded, and which values STATUS takes. -/

namespace Sys2Proof.Machine

variable {s t : State} {w : BusWord} {rest : List Move}

/-- A step and the run after it. -/
theorem runSteps_of_step {u : State} {k : Nat} (h : step s = .next u) (h' : runSteps k u = .next t) :
    runSteps (k + 1) s = .next t := (runSteps_succ h).trans h'

theorem runSteps_one (h : step s = .next t) : runSteps 1 s = .next t := runSteps_of_step h rfl

/-- Two runs one after the other. -/
theorem runSteps_trans {u : State} {a b : Nat} (h : runSteps a s = .next u) (h' : runSteps b u = .next t) :
    runSteps (a + b) s = .next t := (runSteps_add h).trans h'

/-! ### The BUSY window -/

theorem SameBlock.trans {u : State} (h : SameBlock s t) (h' : SameBlock t u) : SameBlock s u where
  phase := h'.phase.trans h.phase
  frameLen := h'.frameLen.trans h.frameLen
  flags := ⟨h'.flags.done.trans h.flags.done, h'.flags.valid.trans h.flags.valid, h'.flags.err.trans h.flags.err⟩
  regs := h'.regs.trans h.regs
  mem a := (h'.mem a).trans (h.mem a)

theorem SameBlock.sameInput (h : SameBlock s t) : SameInput s t := ⟨h.frameLen, fun i _ => h.mem i⟩

theorem SameInput.trans {u : State} (h : SameInput s t) (h' : SameInput t u) : SameInput s u :=
  ⟨h'.frameLen.trans h.frameLen, fun i hi => (h'.inBuf i hi).trans (h.inBuf i hi)⟩

/-- A transaction while BUSY keeps the block. -/
theorem step_host_busy (hp : s.phase = .busy) (h : s.schedule = .host w :: rest) :
    ∃ t, step s = .next t ∧ SameBlock s t ∧ t.schedule = rest := by
  obtain ⟨t, ht, hblock, hsched⟩ := transactionsWhileBusyKeepTheBlock (s.sched rest) w hp
  exact ⟨t, (step_host h).trans ht, ⟨hblock.phase, hblock.frameLen, ⟨hblock.flags.done, hblock.flags.valid,
    hblock.flags.err⟩, hblock.regs, hblock.mem⟩, hsched⟩

/-- Any list of transactions while BUSY keeps the block. -/
theorem runSteps_busy_window (window : List BusWord) (hp : s.phase = .busy)
    (h : s.schedule = window.map .host ++ rest) :
    ∃ t, runSteps window.length s = .next t ∧ SameBlock s t ∧ t.schedule = rest := by
  induction window generalizing s with
  | nil => exact ⟨s, rfl, .refl s, h⟩
  | cons w window ih =>
    obtain ⟨u, hu, hblock, hsched⟩ := step_host_busy hp h
    obtain ⟨t, ht, hblock', hrest⟩ := ih (hblock.phase.trans hp) hsched
    exact ⟨t, runSteps_of_step hu ht, hblock.trans hblock', hrest⟩

/-- Settles O52: transactions leave a decode in progress, and the first other move, or the end of the schedule, ends
it. -/
theorem decodeInProgressEnds : Obligations.DecodeInProgressEnds := by
  intro s hp
  induction hs : s.schedule generalizing s with
  | nil => exact ⟨1, _, le_rfl, runSteps_one (step_engineTurn hp (.inr ⟨hs, rfl⟩)), rfl⟩
  | cons m rest ih =>
    cases m with
    | host w =>
      obtain ⟨u, hu, hblock, hsched⟩ := step_host_busy hp hs
      obtain ⟨k, t, hk, ht, hidle⟩ := ih u (hblock.phase.trans hp) hsched
      exact ⟨k + 1, t, Nat.succ_le_succ hk, runSteps_of_step hu ht, hidle⟩
    | engine => exact ⟨1, _, Nat.le_add_left .., runSteps_one (step_engineTurn hp (.inl hs)), rfl⟩
    | reset => exact ⟨1, _, Nat.le_add_left .., runSteps_one (step_reset hs), rfl⟩

/-! ### The end of a decode -/

/-- A completion shows the answer of `decode`. -/
theorem shows_complete (s : State) : Shows s.complete s.frameResult := by
  cases hr : s.frameResult with
  | ok f =>
    obtain ⟨hv, he, hregs, hout⟩ := complete_ok hr
    exact ⟨by rw [status_complete, hv, he]; rfl, hregs, hout⟩
  | err e =>
    obtain ⟨hv, he⟩ := complete_valid_err_of_err hr
    have hstatus : s.complete.status = statusWord .idle true false e.code := by rw [status_complete, hv, he]
    cases e <;> exact ⟨hstatus, resultsBlank_complete hr⟩

/-- Where every byte of the frame is written, the engine decodes the written bytes. -/
theorem frameResult_of_written {bytes : Nat → Byte} (h : ∀ j < s.frameLen.toNat, s.inByte j = some (bytes j)) :
    s.frameResult = decodeFrame bytes s.frameLen :=
  decodeFrame_congr fun j hj => by rw [State.engineByte, h j hj]; rfl

/-- A DECODE, any transactions, and the engine's turn, for input whose bytes are given. -/
theorem runSteps_decode {bytes : Nat → Byte} (window : List BusWord) (hp : s.phase = .idle)
    (hs : s.schedule = .host 0x38001 :: (window.map .host ++ .engine :: rest))
    (hbytes : ∀ j < s.frameLen.toNat, s.inByte j = some (bytes j)) :
    ∃ t, runSteps (window.length + 2) s = .next t ∧ t.phase = .idle ∧ t.schedule = rest ∧ SameInput s t ∧
      Shows t (decodeFrame bytes s.frameLen) := by
  have haccept := step_decodeWord_idle hp hs
  obtain ⟨u, hu, hblock, hsched⟩ := runSteps_busy_window (s := (s.sched _).accept) window rfl rfl
  have hcomplete : step u = .next (u.sched rest).complete := step_engineTurn hblock.phase (.inl hsched)
  obtain ⟨hphase, -, hlen, hin, -, -, hrest⟩ := complete_frame (u.sched rest)
  have hlen' : u.frameLen = s.frameLen := hblock.frameLen
  have hanswer : (u.sched rest).frameResult = decodeFrame bytes s.frameLen := by
    rw [← hlen']
    exact frameResult_of_written (s := u.sched rest) fun j hj => (hblock.mem j).trans (hbytes j (hlen' ▸ hj))
  refine ⟨_, runSteps_of_step haccept (runSteps_trans hu (runSteps_one hcomplete)), hphase, hrest, ?_, ?_⟩
  · exact ⟨hlen.trans hlen', fun i hi => (hin i hi).trans (hblock.mem i)⟩
  · exact hanswer ▸ shows_complete (u.sched rest)

/-- Settles O53: a written byte is the value that `inByte` has. -/
theorem decodeEndsAsFunctionOfAcceptedInput : Obligations.DecodeEndsAsFunctionOfAcceptedInput := by
  intro s window rest hp hs hwritten
  refine runSteps_decode window hp hs fun j hj => ?_
  obtain ⟨v, hv⟩ := Option.isSome_iff_exists.1 (hwritten j hj)
  rw [hv]
  rfl

/-! ### Loading a frame (70_reset_and_hazards.md R124) -/

theorem step_wrInbufWord_idle (hp : s.phase = .idle) {a : Addr} (ha : a.toNat < 0x100) {d : Byte}
    (hs : s.schedule = .host (writeWord a d) :: rest) : step s = .next ((s.sched rest).storeIn a.toNat d) := by
  have hlow : (a.setWidth 8).toNat = a.toNat := by rw [BitVec.toNat_setWidth, Nat.mod_eq_of_lt ha]
  rw [step_host hs, (writeAddressSelectsTransaction a d).1 ha, ← hlow]
  exact exec_wrInbuf_idle (s := s.sched rest) hp

theorem step_wrFramelenWord_idle (hp : s.phase = .idle) {d : Byte}
    (hs : s.schedule = .host (writeWord 0x181 d) :: rest) : step s = .next ((s.sched rest).setFrameLen d) := by
  rw [step_host hs, decode_writeWord_of_ne_cmd (by decide)]
  exact exec_wrFramelen_idle (s := s.sched rest) hp

/-- The moves that write `f 0` to `f (n - 1)` to IN_BUF in order. -/
def loadMoves (f : Nat → Byte) (n : Nat) : List Move :=
  (List.range n).map fun i => .host (writeWord (BitVec.ofNat 9 i) (f i))

theorem loadMoves_succ (f : Nat → Byte) (n : Nat) :
    loadMoves f (n + 1) = loadMoves f n ++ [.host (writeWord (BitVec.ofNat 9 n) (f n))] := by
  simp [loadMoves, List.range_succ]

/-- Writing `n` bytes in order while IDLE leaves them in IN_BUF. -/
theorem runSteps_load (f : Nat → Byte) {n : Nat} (hn : n ≤ 256) (hp : s.phase = .idle)
    (hs : s.schedule = loadMoves f n ++ rest) :
    ∃ t, runSteps n s = .next t ∧ t.phase = .idle ∧ t.schedule = rest ∧ ∀ j < n, t.inByte j = some (f j) := by
  induction n generalizing rest with
  | zero => exact ⟨s, rfl, hp, hs, nofun⟩
  | succ n ih =>
    rw [loadMoves_succ, List.append_assoc] at hs
    obtain ⟨u, hu, hidle, hsched, hin⟩ := ih (by omega) hs
    have haddr : (BitVec.ofNat 9 n).toNat = n := Nat.mod_eq_of_lt (by omega)
    have hstore := step_wrInbufWord_idle hidle (by omega) hsched
    rw [haddr] at hstore
    refine ⟨_, runSteps_trans hu (runSteps_one hstore), hidle, rfl, fun j hj => ?_⟩
    rcases eq_or_ne j n with rfl | hne
    · exact inByte_storeIn_same j (f j)
    · exact (inByte_storeIn_other hne (f n)).trans (hin j (by omega))

/-- Settles O54: the bytes are loaded, FRAME_LEN is their number, and the decode has no transaction in its window. -/
theorem loadedFrameIsDecoded : Obligations.LoadedFrameIsDecoded := by
  intro s bs rest hp hlen hs
  obtain ⟨u, hu, hidle, hsched, hin⟩ := runSteps_load (bs.getD · 0x00) (Nat.le_succ_of_le hlen) hp hs
  have hset := step_wrFramelenWord_idle hidle hsched
  have hcount : (BitVec.ofNat 8 bs.length).toNat = bs.length := Nat.mod_eq_of_lt (Nat.lt_succ_of_le hlen)
  obtain ⟨t, ht, hidle', hrest, -, hshows⟩ := runSteps_decode (bytes := (bs.getD · 0x00)) (rest := rest)
    (s := (u.sched _).setFrameLen (BitVec.ofNat 8 bs.length)) [] hidle rfl fun j hj => hin j (hcount ▸ hj)
  exact ⟨t, runSteps_trans hu (runSteps_of_step hset ht), hidle', hrest, hshows⟩

/-! ### The values of STATUS (10_state.md R19) -/

theorem Reachable.inv (h : Reachable s) : Inv s := by
  obtain ⟨moves, k, hrun⟩ := h
  exact runSteps_keeps everyStepKeepsTheInvariant (inv_sched resetMeetsTheInvariant moves) hrun

/-- The `STATUS` that shows an answer of `decode`. -/
def FrameResult.status : FrameResult → Byte
  | .ok _ => 0x06
  | .err e => statusWord .idle true false e.code

theorem Shows.status {r : FrameResult} (h : Shows t r) : t.status = r.status := by
  cases r with
  | ok f => exact h.1
  | err e => cases e <;> exact h.1

/-- A host that loads a frame after reset and decodes it reaches the `STATUS` of `decode`'s answer. -/
theorem reachable_status_of_frame (bs : List Byte) (hlen : bs.length ≤ 255) :
    ∃ s, Reachable s ∧ s.status = (decodeList bs).status := by
  obtain ⟨t, ht, -, -, hshows⟩ := loadedFrameIsDecoded (State.reset.sched _) bs [] rfl hlen rfl
  exact ⟨t, ⟨_, _, ht⟩, hshows.status⟩

/-- Settles O51: the invariant allows no other value; reset, an accept, and a frame of each outcome reach the six. -/
theorem reachableStatusValuesAreExactlySix : Obligations.ReachableStatusValuesAreExactlySix := by
  intro v
  refine ⟨?_, ?_⟩
  · rintro ⟨s, hs, rfl⟩
    simpa [reachableStatus] using hs.inv.status
  · rintro (rfl | rfl | rfl | rfl | rfl | rfl)
    · exact ⟨State.reset, ⟨[], 0, rfl⟩, rfl⟩
    · exact ⟨_, ⟨[.host 0x38001], 1, runSteps_one (step_decodeWord_idle rfl rfl)⟩, status_accept _⟩
    · exact reachable_status_of_frame [0x81, 0x80, 0, 0, 0, 0] (by decide)
    · exact reachable_status_of_frame [] (by decide)
    · exact reachable_status_of_frame [0x81, 0xFE, 0, 0, 0, 0] (by decide)
    · exact reachable_status_of_frame [0x81, 0x81, 0, 0, 0, 0] (by decide)

end Sys2Proof.Machine
end

section
/-! The assembler (30_encoding.md R61 to R63): which operands it takes, and the words of the pseudo-instructions. -/

namespace Sys2Proof.Machine

/-! ### Operands out of range (R61, R62) -/

theorem isSome_ite_eq_decide {α : Type} (x : α) (p : Prop) [Decidable p] :
    (if p then some x else none).isSome = decide p :=
  Bool.eq_iff_iff.2 (Option.isSome_ite.trans decide_eq_true_iff.symm)

theorem resolve_of_number {a : AsmAddr} {n : Nat} (h : a.number = some n) :
    a.resolve = if n ≤ 0x1FF then some (BitVec.ofNat 9 n) else none := by rw [AsmAddr.resolve, h]

theorem resolve_of_number_none {a : AsmAddr} (h : a.number = none) : a.resolve = none := by rw [AsmAddr.resolve, h]

theorem assembleRd_isSome (a : AsmAddr) : (assembleRd a).isSome = a.resolve.isSome := by
  cases h : a.resolve <;> simp [assembleRd, h]

theorem assembleWr_isSome (a : AsmAddr) (d : Nat) :
    (assembleWr a d).isSome = (a.resolve.isSome && decide (d ≤ 0xFF)) := by
  cases h : a.resolve with
  | none => simp [assembleWr, h]
  | some n => simp only [assembleWr, h, isSome_ite_eq_decide, Option.isSome_some, Bool.true_and]

theorem resolve_num_isSome (n : Nat) : (AsmAddr.num n).resolve.isSome = decide (n ≤ 0x1FF) := by
  rw [resolve_of_number (a := .num n) rfl, isSome_ite_eq_decide]

/-- Settles O9: an address resolves when it has a number of at most 0x1FF, which every index inside its buffer has. -/
theorem assemblerRejectsOutOfRange : Obligations.AssemblerRejectsOutOfRange := by
  refine ⟨fun n => ?num, fun n d => ?numData, fun i => ?inBuf, fun i => ?outBuf⟩
  case num => rw [assembleRd_isSome, resolve_num_isSome]
  case numData => rw [assembleWr_isSome, resolve_num_isSome]
  case inBuf =>
    rw [assembleRd_isSome]
    by_cases h : i < 256
    · rw [resolve_of_number (a := .inBuf i) (if_pos h), if_pos (by omega), decide_eq_true h]; rfl
    · rw [resolve_of_number_none (a := .inBuf i) (if_neg h), decide_eq_false h]; rfl
  case outBuf =>
    rw [assembleRd_isSome]
    by_cases h : i < 128
    · rw [resolve_of_number (a := .outBuf i) (if_pos h), if_pos (by simp; omega), decide_eq_true h]; rfl
    · rw [resolve_of_number_none (a := .outBuf i) (if_neg h), decide_eq_false h]; rfl

/-! ### The words of the pseudo-instructions (R63) -/

/-- A write word's number. -/
theorem writeWord_eq_ofNat {a b : Nat} (ha : a ≤ 0x1FF) (hb : b ≤ 0xFF) :
    writeWord (BitVec.ofNat 9 a) (BitVec.ofNat 8 b) = BitVec.ofNat 18 (0x20000 + (a <<< 8) + b) := by
  have haddr : (BitVec.ofNat 9 a).toNat = a := Nat.mod_eq_of_lt (by omega)
  have hdata : (BitVec.ofNat 8 b).toNat = b := Nat.mod_eq_of_lt (by omega)
  refine BitVec.eq_of_toNat_eq ?_
  rw [writeWord, busWord, toNat_append_eq_add, toNat_append_eq_add, haddr, hdata, BitVec.toNat_ofNat,
    Nat.shiftLeft_eq, Nat.mod_eq_of_lt (by omega), BitVec.toNat_ofBool]
  show (1 * 2 ^ 9 + a) * 2 ^ 8 + b = 0x20000 + a * 2 ^ 8 + b
  ring

/-- The word of `LOAD i, b`. -/
theorem assembleWr_inBuf {i b : Nat} (hi : i ≤ 255) (hb : b ≤ 255) :
    assembleWr (.inBuf i) b = some (BitVec.ofNat 18 (0x20000 + (i <<< 8) + b)) := by
  have hres : (AsmAddr.inBuf i).resolve = some (BitVec.ofNat 9 i) := by
    rw [resolve_of_number (a := .inBuf i) (if_pos (by simp; omega)), if_pos (by omega)]
  simp only [assembleWr, hres, if_pos hb, writeWord_eq_ofNat (show i ≤ 0x1FF by omega) hb]

/-- The word of `SETLEN n`. -/
theorem assembleWr_frameLen {n : Nat} (hn : n ≤ 255) :
    assembleWr .frameLen n = some (BitVec.ofNat 18 (0x38100 + n)) := by
  have hword := writeWord_eq_ofNat (a := 0x181) (by decide) hn
  exact (if_pos hn).trans (congrArg some hword)

theorem assemble_wr {a : AsmAddr} {d : Nat} {w : BusWord} {ls : List HostLine} (h : assembleWr a d = some w) :
    assemble (.wr a d :: ls) = (assemble ls).map (w :: ·) := by
  cases hls : assemble ls <;> simp [assemble, h, hls]

/-- The words of the LOAD lines from index `i` on, before those of the lines after them. -/
theorem assemble_loadLines (bs : List Nat) (i : Nat) (hlen : i + bs.length ≤ 256) (hbs : ∀ b ∈ bs, b ≤ 255)
    (ls : List HostLine) :
    assemble (loadLines i bs ++ ls) = (assemble ls).map
      ((List.range bs.length).map (fun j => BitVec.ofNat 18 (0x20000 + ((i + j) <<< 8) + bs.getD j 0)) ++ ·) := by
  induction bs generalizing i with
  | nil => simp [loadLines]
  | cons b bs ih =>
    rw [List.length_cons] at hlen
    have hhead := assembleWr_inBuf (i := i) (by omega) (hbs b List.mem_cons_self)
    have htail := ih (i + 1) (by omega) fun c hc => hbs c (List.mem_cons_of_mem b hc)
    rw [loadLines, List.cons_append, assemble_wr hhead, htail, Option.map_map, List.length_cons,
      List.range_succ_eq_map]
    simp [Function.comp_def, Nat.add_assoc, Nat.add_comm 1]

/-- Settles O8: each line's word, and for LOADFRAME the LOAD lines before SETLEN's. -/
theorem pseudoInstructionsHaveTheirWords : Obligations.PseudoInstructionsHaveTheirWords := by
  refine ⟨rfl, rfl, rfl, fun v l => rfl, fun n hn => ?setlen, fun i b hi hb => ?load, fun bs hlen hbs => ?loadframe⟩
  case setlen => exact assemble_wr (assembleWr_frameLen hn)
  case load => exact assemble_wr (assembleWr_inBuf hi hb)
  case loadframe =>
    have hset : assemble [.wr .frameLen bs.length] = some [BitVec.ofNat 18 (0x38100 + bs.length)] :=
      assemble_wr (assembleWr_frameLen hlen)
    rw [Pseudo.expand, assemble_loadLines bs 0 (by omega) hbs, hset]
    simp

end Sys2Proof.Machine
end
